-- ==== Sys2Proof/Word.lean ====
section
/-!
DEFINITION. The word types of CSC-1: the byte of the little-endian host window, the 32-bit word of the
command stream and of every host access, and the binary32 value carried by a word (00_scope.md R9).
-/

namespace Sys2Proof

/-- One byte of the host window (20_memory.md R122). -/
abbrev Byte := BitVec 8

/-- One 32-bit word: a command word, an operand word, a register value, a sample word. -/
abbrev Word := BitVec 32

/-- A binary32 value, held as its 32 bits: sign in bit 31, biased exponent in bits 30:23, fraction in
bits 22:0 (00_scope.md R9). A type of its own, so that no integer operation applies to it by accident. -/
structure F32 where
  /-- the encoding -/
  bits : Word
  deriving DecidableEq, Repr, Inhabited

/-- The little-endian bytes of a word, lowest address first (20_memory.md R122). -/
def Word.toBytes (w : Word) : List Byte :=
  [w.extractLsb' 0 8, w.extractLsb' 8 8, w.extractLsb' 16 8, w.extractLsb' 24 8]

/-- The word whose little-endian bytes these are (20_memory.md R122). -/
def Word.ofBytes (b0 b1 b2 b3 : Byte) : Word := b3 ++ b2 ++ b1 ++ b0

end Sys2Proof
end

