-- ==== Sys2Proof/Config.lean ====
section
/-!
DEFINITION. What is fixed for one CSC-1: the implementation parameters of 00_scope.md R7 and R8 at the values
CSC-1 takes, the literals of 92_eei_decisions.md D7, and the open values: the transcendental functions
(00_scope.md R16) and the free values of the model, each an opaque constant without a body.
-/

namespace Sys2Proof

/-- BS, the block size in samples (00_scope.md R8). -/
def Config.bs : Nat := 1024
/-- N_AP, cells of an all-pass stage buffer (00_scope.md R8). -/
def Config.nAp : Nat := 19202
/-- N_MD, cells of a plain modulated delay buffer (00_scope.md R8). -/
def Config.nMd : Nat := 192000
/-- N_MT, cells of the multi-tap buffer (00_scope.md R8). -/
def Config.nMt : Nat := 192000
/-- FB_CAP = 2·BS, cells of a line's feedback FIFO (00_scope.md R8). -/
def Config.fbCap : Nat := 2 * Config.bs
/-- VEC_LEN, words of the vector memory (00_scope.md R8). -/
def Config.vecLen : Nat := 1024
/-- CMD_DEPTH, words of the command FIFO (00_scope.md R8). -/
def Config.cmdDepth : Nat := 256
/-- RSP_DEPTH, words of the response FIFO (00_scope.md R8). -/
def Config.rspDepth : Nat := 64
/-- FS_MIN = 8000.0 (00_scope.md R8). -/
def Config.fsMin : F32 := ⟨0x45FA0000⟩
/-- FS_MAX = 192000.0 (00_scope.md R8). -/
def Config.fsMax : F32 := ⟨0x483B8000⟩
/-- EPS_SNAP, the one-pole zero-snap threshold (00_scope.md R8). -/
def Config.epsSnap : F32 := ⟨0x33D6BF95⟩
/-- SQUELCH, the channel squelch threshold on x·x (00_scope.md R8). -/
def Config.squelch : F32 := ⟨0x3089705F⟩
/-- MAX_STAGES = MAX_LINES = 12 (00_scope.md R7). -/
def Config.twelve : Nat := 12
/-- MAX_TAPS = 256 (00_scope.md R7). -/
def Config.maxTaps : Nat := 256
/-- The LFO update interval, 8 samples (00_scope.md R7). -/
def Config.lfoInterval : Nat := 8

/-- TRANSC: the five transcendental functions, each a total function of its argument alone, of which the
model assumes nothing else (00_scope.md R16; 92_eei_decisions.md D8). Every rule that uses them takes a value of
this type as an argument. It is no part of State. -/
structure Transc where
  /-- sin32 -/
  sin32 : F32 → F32
  /-- cos32 -/
  cos32 : F32 → F32
  /-- tan32 -/
  tan32 : F32 → F32
  /-- exp32, e^x -/
  exp32 : F32 → F32
  /-- exp10_32, 10^x -/
  exp10 : F32 → F32
  deriving Inhabited

/-- The TRANSC of this CSC-1: OPEN (92_eei_decisions.md D8), so a constant without a body; a claim about a state
that went through it holds for every instance. Assumption log 1. -/
opaque Config.transc : Transc

/-- FREE VALUE: the integer `trunc_i` gives for an infinite or NaN argument; 00_scope.md R10 states `trunc_i` for
finite values only. Assumption log 3. -/
opaque Config.truncNonFinite : F32 → Int

/-- FREE VALUE: the integer `floor_i` gives for an infinite or NaN argument; 00_scope.md R10 states `floor_i` for
finite values only. Assumption log 3. -/
opaque Config.floorNonFinite : F32 → Int

/-- FREE VALUE: the k-th unspecified word a host read draws (10_state.md R71 "a draw (any 32-bit value)").
State.draws counts the draws made. Assumption log 5. -/
opaque Config.draw : Nat → Word

end Sys2Proof
end

