-- ==== Sys2Proof/Machine/Float.lean ====
section
/-!
DEFINITION. binary32 arithmetic (00_scope.md R9-R12, 92_eei_decisions.md D7): every operator computes the exact
result as an integer number of units of 2^-149 (the smallest subnormal), or of a fraction of that unit, and rounds
it ONCE to nearest, ties to even. Subnormals are kept; a NaN that an operator produces is the canonical 0x7FC00000.
-/

namespace Sys2Proof

/-- +0 -/
def F32.zero : F32 := ⟨0x00000000⟩
/-- -0 -/
def F32.negZero : F32 := ⟨0x80000000⟩
/-- 1.0 -/
def F32.one : F32 := ⟨0x3F800000⟩
/-- +infinity -/
def F32.inf : F32 := ⟨0x7F800000⟩
/-- The canonical NaN (92_eei_decisions.md D7). -/
def F32.nan : F32 := ⟨0x7FC00000⟩

/-- The sign bit, bit 31 (00_scope.md R9). -/
def F32.sign (x : F32) : Bool := x.bits.getLsbD 31
/-- The biased exponent, bits 30:23 (00_scope.md R9). -/
def F32.expo (x : F32) : Nat := (x.bits.extractLsb' 23 8).toNat
/-- The fraction, bits 22:0 (00_scope.md R9). -/
def F32.frac (x : F32) : Nat := (x.bits.extractLsb' 0 23).toNat
/-- NaN: exponent field 255, fraction not 0. -/
def F32.isNaN (x : F32) : Bool := x.expo == 255 && x.frac != 0
/-- An infinity: exponent field 255, fraction 0. -/
def F32.isInf (x : F32) : Bool := x.expo == 255 && x.frac == 0
/-- Finite: exponent field below 255. -/
def F32.isFinite (x : F32) : Bool := x.expo != 255
/-- `v == 0`, true for +0 and for -0 (00_scope.md R12). -/
def F32.isZero (x : F32) : Bool := x.expo == 0 && x.frac == 0

/-- The magnitude of a finite value in units of 2^-149, exactly. An infinity gets 2^277, above every finite one, so
that the order of values is the order of `val`. -/
def F32.mag (x : F32) : Nat :=
  if x.expo = 0 then x.frac
  else if x.expo = 255 then 2 ^ 277
  else (x.frac + 2 ^ 23) * 2 ^ (x.expo - 1)

/-- The signed exact value in units of 2^-149 (both zeros give 0). -/
def F32.val (x : F32) : Int := if x.sign then -(x.mag : Int) else (x.mag : Int)

/-- Unary minus: exact sign negation (00_scope.md R11). -/
def F32.neg (x : F32) : F32 := ⟨x.bits ^^^ 0x80000000⟩
/-- `abs(v)` clears the sign bit (00_scope.md R12). -/
def F32.abs (x : F32) : F32 := ⟨x.bits &&& 0x7FFFFFFF⟩

/-- The value with the given sign and the given exponent and fraction field as one number. -/
def F32.pack (neg : Bool) (b : Nat) : F32 := ⟨BitVec.ofNat 32 (if neg then b + 2 ^ 31 else b)⟩

/-- The nearest integer to `n / 2^sh`, ties to even. -/
def roundShift (n sh : Nat) : Nat :=
  let q := n / 2 ^ sh
  let r := n % 2 ^ sh
  if 2 ^ sh < 2 * r then q + 1
  else if 2 ^ sh = 2 * r ∧ q % 2 = 1 then q + 1
  else q

/-- Round to nearest, ties to even (00_scope.md R11): the binary32 nearest to ±n/2^s units of 2^-149. The 24-bit
significand starts at the leading one of n, or at the unit for a subnormal; overflow gives the infinity. -/
def F32.round (neg : Bool) (n s : Nat) : F32 :=
  let sh := max s (n.log2 - 23)
  F32.pack neg (min ((sh - s) * 2 ^ 23 + roundShift n sh) 0x7F800000)

/-- The floor of the square root, one bit of the result at a time, `k` bits from the top. -/
def isqrtBits (n : Nat) : Nat → Nat → Nat
  | 0, acc => acc
  | k + 1, acc =>
    if (acc + 2 ^ k) * (acc + 2 ^ k) ≤ n then isqrtBits n k (acc + 2 ^ k) else isqrtBits n k acc

/-- The floor of the square root. -/
def isqrt (n : Nat) : Nat := isqrtBits n (n.log2 / 2 + 1) 0

/-- `a + b` (00_scope.md R11). -/
def F32.add (x y : F32) : F32 :=
  if x.isNaN || y.isNaN then F32.nan
  else if x.isInf then (if y.isInf && (x.sign != y.sign) then F32.nan else x)
  else if y.isInf then y
  else if x.val + y.val = 0 then (if x.sign && y.sign then F32.negZero else F32.zero)
  else F32.round (decide (x.val + y.val < 0)) (x.val + y.val).natAbs 0

/-- `a - b` (00_scope.md R11). -/
def F32.sub (x y : F32) : F32 := F32.add x (F32.neg y)

/-- `a · b` (00_scope.md R11). -/
def F32.mul (x y : F32) : F32 :=
  if x.isNaN || y.isNaN then F32.nan
  else if x.isInf || y.isInf then
    (if x.isZero || y.isZero then F32.nan else F32.pack (x.sign != y.sign) 0x7F800000)
  else F32.round (x.sign != y.sign) (x.mag * y.mag) 149

/-- `a / b` (00_scope.md R11). The quotient keeps one bit below the unit and a sticky bit for the remainder, which
decides every rounding exactly. -/
def F32.div (x y : F32) : F32 :=
  if x.isNaN || y.isNaN then F32.nan
  else if x.isInf then (if y.isInf then F32.nan else F32.pack (x.sign != y.sign) 0x7F800000)
  else if y.isInf then F32.pack (x.sign != y.sign) 0
  else if y.isZero then (if x.isZero then F32.nan else F32.pack (x.sign != y.sign) 0x7F800000)
  else
    let num := x.mag * 2 ^ 150
    F32.round (x.sign != y.sign) (2 * (num / y.mag) + (if num % y.mag = 0 then 0 else 1)) 2

/-- `sqrt32`, the correctly rounded square root: NaN below 0, a zero or +infinity as it is (00_scope.md R16). -/
def F32.sqrt (x : F32) : F32 :=
  if x.isNaN then F32.nan
  else if x.isZero then x
  else if x.sign then F32.nan
  else if x.isInf then x
  else
    let num := x.mag * 2 ^ 151
    F32.round false (2 * isqrt num + (if isqrt num * isqrt num = num then 0 else 1)) 2

/-- `a < b`: false on a NaN; the two zeros are equal (00_scope.md R12). -/
def F32.lt (x y : F32) : Bool := !x.isNaN && !y.isNaN && decide (x.val < y.val)
/-- `a >= b`: false on a NaN. -/
def F32.ge (x y : F32) : Bool := !x.isNaN && !y.isNaN && decide (y.val ≤ x.val)

/-- `min(a, b) = a if a < b else b` (00_scope.md R12). -/
def F32.min (a b : F32) : F32 := if F32.lt a b then a else b
/-- `max(a, b) = a if a > b else b` (00_scope.md R12). -/
def F32.max (a b : F32) : F32 := if F32.lt b a then a else b
/-- `clampf(v, lo, hi) = min(max(v, lo), hi)` (00_scope.md R12). -/
def F32.clamp (v lo hi : F32) : F32 := F32.min (F32.max v lo) hi

/-- `clampi(i, lo, hi)` on integers, as a natural number (00_scope.md R12; every use has lo >= 0). -/
def clampi (i : Int) (lo hi : Nat) : Nat := (min (max i (lo : Int)) (hi : Int)).toNat

/-- `f32(i)`: an integer to binary32, to nearest, ties to even (00_scope.md R10). -/
def F32.ofInt (i : Int) : F32 := F32.round (decide (i < 0)) (i.natAbs * 2 ^ 149) 0
/-- `f32(i)` of a natural number (00_scope.md R10). -/
def F32.ofNat (n : Nat) : F32 := F32.round false (n * 2 ^ 149) 0

/-- `trunc_i(v)`: toward zero (00_scope.md R10); a free value where v is not finite (assumption log 3). -/
def F32.trunc (x : F32) : Int :=
  if x.isFinite then (if x.sign then -((x.mag / 2 ^ 149 : Nat) : Int) else ((x.mag / 2 ^ 149 : Nat) : Int))
  else Config.truncNonFinite x

/-- `floor_i(v)`: the largest integer <= v (00_scope.md R10); a free value where v is not finite
(assumption log 3). -/
def F32.floor (x : F32) : Int :=
  if x.isFinite then x.val / ((2 ^ 149 : Nat) : Int) else Config.floorNonFinite x

/-! The literals of 92_eei_decisions.md D7 and of the rules that use them. -/

/-- PI32 -/
def F32.pi : F32 := ⟨0x40490FDB⟩
/-- TWO_PI32 -/
def F32.twoPi : F32 := ⟨0x40C90FDB⟩
/-- 0.499 -/
def F32.c0499 : F32 := ⟨0x3EFF7CEE⟩
/-- 0.1 -/
def F32.c01 : F32 := ⟨0x3DCCCCCD⟩
/-- 0.85 -/
def F32.c085 : F32 := ⟨0x3F59999A⟩
/-- 0.3 -/
def F32.c03 : F32 := ⟨0x3E99999A⟩
/-- 0.7 -/
def F32.c07 : F32 := ⟨0x3F333333⟩
/-- 0.6 -/
def F32.c06 : F32 := ⟨0x3F19999A⟩
/-- 3.3 -/
def F32.c33 : F32 := ⟨0x40533333⟩
/-- 0.001 -/
def F32.c0001 : F32 := ⟨0x3A83126F⟩
/-- Q0 = 0.70710678 -/
def F32.q0 : F32 := ⟨0x3F3504F3⟩
/-- 0.5 -/
def F32.half : F32 := ⟨0x3F000000⟩
/-- 0.999, the upper end of every feedback register (10_state.md R53) -/
def F32.c0999 : F32 := ⟨0x3F7FBE77⟩
/-- The largest binary32 below 1: GAIN_MAX (44_fdn_channel.md R392) and the top of PHASE (46_diagnostic.md R501). -/
def F32.belowOne : F32 := ⟨0x3F7FFFFF⟩
/-- 2.0 -/
def F32.two : F32 := ⟨0x40000000⟩
/-- 3.0 -/
def F32.three : F32 := ⟨0x40400000⟩
/-- 4.0 -/
def F32.four : F32 := ⟨0x40800000⟩
/-- 8.0 -/
def F32.eight : F32 := ⟨0x41000000⟩
/-- 16.0 -/
def F32.sixteen : F32 := ⟨0x41800000⟩
/-- 20.0 -/
def F32.twenty : F32 := ⟨0x41A00000⟩
/-- 60.0 -/
def F32.sixty : F32 := ⟨0x42700000⟩
/-- 1000.0 -/
def F32.thousand : F32 := ⟨0x447A0000⟩
/-- 1e4 -/
def F32.e4 : F32 := ⟨0x461C4000⟩
/-- 1e6 -/
def F32.e6 : F32 := ⟨0x49742400⟩

/-! Conversions (00_scope.md R17, R18). -/

/-- `dB2Gain(d) = exp10_32(d / 20)` (00_scope.md R17). -/
def dB2Gain (T : Transc) (d : F32) : F32 := T.exp10 (F32.div d F32.twenty)
/-- `ms2s(ms) = (ms · fs) / 1000` (00_scope.md R18). -/
def ms2s (fs ms : F32) : F32 := F32.div (F32.mul ms fs) F32.thousand
/-- `hz2c(hz) = hz / fs` (00_scope.md R18). -/
def hz2c (fs hz : F32) : F32 := F32.div hz fs
/-- `s2s(sec) = sec · fs` (00_scope.md R18). -/
def s2s (fs sec : F32) : F32 := F32.mul sec fs

end Sys2Proof
end

