-- ==== Sys2Proof/Machine/Generator.lean ====
section
/-!
DEFINITION. The seeded decorrelation generator as functions (40_rng_vgen.md R200-R208): the LCG step, the four draws,
Generate and GenerateX. Each generator starts a private accumulator from its seed (10_state.md R70).
-/

namespace Sys2Proof.Machine

/-- `lcg(x) = (22695477 · x + 1) mod 2^32`, exact integer arithmetic, then reduced (40_rng_vgen.md R200). -/
def lcg (x : Word) : Word := BitVec.ofNat 32 (22695477 * x.toNat + 1)

/-- The value NextInt returns of a new accumulator: its low 31 bits (40_rng_vgen.md R202). -/
def int31 (x : Word) : Word := x &&& 0x7FFFFFFF

/-- The value NextFloat returns of a new accumulator: `f32(i) / f32(2147483647)` (40_rng_vgen.md R203). -/
def unitFloat (x : Word) : F32 := F32.div (F32.ofNat (int31 x).toNat) (F32.ofNat 2147483647)

/-- The value NextBipolar returns of a new accumulator: `2·f - 1` (40_rng_vgen.md R204). -/
def bipolarFloat (x : Word) : F32 := F32.sub (F32.mul F32.two (unitFloat x)) F32.one

/-- One value of Generate from its accumulator: `f32(y) / f32(4294967295)` (40_rng_vgen.md R206). -/
def generateValue (y : Word) : F32 := F32.div (F32.ofNat y.toNat) (F32.ofNat 4294967295)

/-- `Generate(seed, count)` (40_rng_vgen.md R206). -/
def generate (seed : Word) : Nat → List F32
  | 0 => []
  | count + 1 => generateValue (lcg seed) :: generate (lcg seed) count

/-- One blended value: `A·(1 - cs) + B·cs`, `(1 - cs)` already rounded (40_rng_vgen.md R207). -/
def blend (oneMinusCs cs a b : F32) : F32 := F32.add (F32.mul a oneMinusCs) (F32.mul b cs)

/-- `GenerateX(seed, count, cs)`: the stream of seed and the stream of its complement, blended by cs
(40_rng_vgen.md R207). -/
def generateX (seed : Word) (count : Nat) (cs : F32) : List F32 :=
  List.zipWith (blend (F32.sub F32.one cs) cs) (generate seed count) (generate (~~~seed) count)

/-- Entry k of a seeded vector; a vector always has its full length, and a missing entry would read +0
(assumption log 16). -/
def vecAt (v : List F32) (k : Nat) : F32 := v.getD k F32.zero

end Sys2Proof.Machine
end

