-- ==== Sys2Proof/Machine/Names.lean ====
section
/-!
DEFINITION. The names of the machine: channels, cause codes, control registers, units and their fields, interrupt
bits. Each is a closed inductive, so that no meaning sees a raw number of the encoding.
-/

namespace Sys2Proof.Machine

/-- The two channels (10_state.md R69): channel 0 is L, channel 1 is R. -/
inductive Chan where
  | L
  | R
  deriving DecidableEq, Repr

/-- The cause codes of 60_exceptions.md R541, in code order. -/
inductive Cause where
  /-- 1, ILLEGAL_OP -/
  | illegalOp
  /-- 2, RESERVED -/
  | reserved
  /-- 3, BAD_CH -/
  | badCh
  /-- 4, BAD_SEL -/
  | badSel
  /-- 5, BAD_N -/
  | badN
  /-- 6, BAD_FIELD -/
  | badField
  /-- 7, BAD_VALUE -/
  | badValue
  deriving DecidableEq, Repr

/-- The IP and IE bits of 10_state.md R46. -/
inductive IrqBit where
  /-- bit 0 -/
  | sync
  /-- bit 1 -/
  | err
  /-- bit 2 -/
  | idle
  /-- bit 3 -/
  | cmdOvf
  /-- bit 4 -/
  | rspUnf
  /-- bit 5 -/
  | busErr
  deriving DecidableEq, Repr

/-- The global registers (10_state.md R53). -/
inductive GReg where
  /-- FS, SEL 0x000 -/
  | fs
  /-- INPUT_MIX, SEL 0x001 -/
  | inputMix
  /-- INTERP_EN, SEL 0x002 -/
  | interpEn
  deriving DecidableEq, Repr

/-- The registers of scope C, one copy per channel (10_state.md R53), in SEL order. -/
inductive CReg where
  /-- BQX_TYPE, SEL 0x004 -/
  | bqxType
  /-- BQX_HZ, SEL 0x005 -/
  | bqxHz
  /-- BQX_DB, SEL 0x006 -/
  | bqxDb
  /-- BQX_Q, SEL 0x007 -/
  | bqxQ
  /-- LOWCUT_EN, SEL 0x010 -/
  | lowcutEn
  /-- HIGHCUT_EN, SEL 0x011 -/
  | highcutEn
  /-- LOWCUT_HZ, SEL 0x012 -/
  | lowcutHz
  /-- HIGHCUT_HZ, SEL 0x013 -/
  | highcutHz
  /-- DRY_OUT, SEL 0x014 -/
  | dryOut
  /-- EARLY_OUT, SEL 0x015 -/
  | earlyOut
  /-- LATE_OUT, SEL 0x016 -/
  | lateOut
  /-- TAP_EN, SEL 0x018 -/
  | tapEn
  /-- TAP_COUNT, SEL 0x019 -/
  | tapCount
  /-- TAP_DECAY, SEL 0x01A -/
  | tapDecay
  /-- TAP_PREDELAY_MS, SEL 0x01B -/
  | tapPredelayMs
  /-- TAP_LENGTH_MS, SEL 0x01C -/
  | tapLengthMs
  /-- EDIF_EN, SEL 0x020 -/
  | edifEn
  /-- EDIF_COUNT, SEL 0x021 -/
  | edifCount
  /-- EDIF_DELAY_MS, SEL 0x022 -/
  | edifDelayMs
  /-- EDIF_FEEDBACK, SEL 0x023 -/
  | edifFeedback
  /-- EDIF_MOD_AMT_MS, SEL 0x024 -/
  | edifModAmtMs
  /-- EDIF_MOD_RATE_HZ, SEL 0x025 -/
  | edifModRateHz
  /-- EDIF_MOD_EN, SEL 0x026 -/
  | edifModEn
  /-- LATE_TAP_POST, SEL 0x028 -/
  | lateTapPost
  /-- LATE_LINE_COUNT, SEL 0x029 -/
  | lateLineCount
  /-- LATE_DIF_EN, SEL 0x02A -/
  | lateDifEn
  /-- LATE_DIF_COUNT, SEL 0x02B -/
  | lateDifCount
  /-- LATE_LINE_SIZE_MS, SEL 0x02C -/
  | lateLineSizeMs
  /-- LATE_LINE_MOD_AMT_MS, SEL 0x02D -/
  | lateLineModAmtMs
  /-- LATE_DIF_DELAY_MS, SEL 0x02E -/
  | lateDifDelayMs
  /-- LATE_DIF_MOD_AMT_MS, SEL 0x02F -/
  | lateDifModAmtMs
  /-- LATE_LINE_DECAY_S, SEL 0x030 -/
  | lateLineDecayS
  /-- LATE_LINE_MOD_RATE_HZ, SEL 0x031 -/
  | lateLineModRateHz
  /-- LATE_DIF_FEEDBACK, SEL 0x032 -/
  | lateDifFeedback
  /-- LATE_DIF_MOD_RATE_HZ, SEL 0x033 -/
  | lateDifModRateHz
  /-- LATE_DIF_MOD_EN, SEL 0x034 -/
  | lateDifModEn
  /-- EQ_LSH_EN, SEL 0x038 -/
  | eqLshEn
  /-- EQ_HSH_EN, SEL 0x039 -/
  | eqHshEn
  /-- EQ_LP_EN, SEL 0x03A -/
  | eqLpEn
  /-- EQ_LSH_HZ, SEL 0x03B -/
  | eqLshHz
  /-- EQ_HSH_HZ, SEL 0x03C -/
  | eqHshHz
  /-- EQ_LP_HZ, SEL 0x03D -/
  | eqLpHz
  /-- EQ_LSH_DB, SEL 0x03E -/
  | eqLshDb
  /-- EQ_HSH_DB, SEL 0x03F -/
  | eqHshDb
  /-- CROSS_SEED, SEL 0x040 -/
  | crossSeed
  /-- SEED_TAP, SEL 0x041 -/
  | seedTap
  /-- SEED_DIFFUSION, SEL 0x042 -/
  | seedDiffusion
  /-- SEED_DELAY, SEL 0x043 -/
  | seedDelay
  /-- SEED_POSTDIFFUSION, SEL 0x044 -/
  | seedPostdiffusion
  deriving DecidableEq, Repr

/-- A control register: a global one or a per-channel one (10_state.md R51, R53). -/
inductive Reg where
  | glob (r : GReg)
  | chan (r : CReg)
  deriving DecidableEq, Repr

/-- The type of a control register with its range (10_state.md R50, R53). -/
inductive RegType where
  /-- F: binary32, clamped to [lo, hi], NaN refused -/
  | float (lo hi : F32)
  /-- B: 1 if the word is nonzero -/
  | bool
  /-- U: u32, clamped to [lo, hi] -/
  | unsigned (lo hi : Nat)
  /-- E: a word above hi is refused -/
  | enum (hi : Nat)
  deriving DecidableEq, Repr

/-- The nine biquad responses in TYPE order 0..8 (41_filters.md R255). -/
inductive BqType where
  | lp6
  | hp6
  | lp
  | hp
  | bp
  | notch
  | peak
  | lsh
  | hsh
  deriving DecidableEq, Repr

/-! Unit addresses (46_diagnostic.md R500), by kind. -/

/-- The ONEPOLE units of a channel. -/
inductive OnePoleRef where
  | hpc
  | lpc
  | damp (l : Fin 12)
  deriving DecidableEq, Repr

/-- The BIQUAD units of a channel. -/
inductive BiquadRef where
  | bqx
  | lsh (l : Fin 12)
  | hsh (l : Fin 12)
  deriving DecidableEq, Repr

/-- The MDLY units of a channel. -/
inductive MdlyRef where
  | pre
  | line (l : Fin 12)
  deriving DecidableEq, Repr

/-- The DIFF units of a channel. -/
inductive DiffRef where
  | ed
  | line (l : Fin 12)
  deriving DecidableEq, Repr

/-- A per-channel unit (46_diagnostic.md R500). -/
inductive UnitRef where
  | onePole (u : OnePoleRef)
  | biquad (u : BiquadRef)
  /-- stage s of a diffuser -/
  | apf (d : DiffRef) (s : Fin 12)
  | mdly (u : MdlyRef)
  | diff (u : DiffRef)
  | mt
  | line (l : Fin 12)
  | chan
  deriving DecidableEq, Repr

/-- What a SEL can name for RDER and WDER: a per-channel unit, or the global RNG (46_diagnostic.md R500). -/
inductive Target where
  | unit (u : UnitRef)
  | rng
  deriving DecidableEq, Repr

/-! Fields (46_diagnostic.md R501), by kind. -/

inductive OnePoleField where
  | mode
  | cutoff
  | a1
  | b0
  | y
  deriving DecidableEq, Repr

inductive BiquadField where
  | type
  | freq
  | gainDb
  | q
  | b0
  | b1
  | b2
  | a1
  | a2
  | x1
  | x2
  | y1
  | y2
  deriving DecidableEq, Repr

/-- The fields APF and MDLY share. -/
inductive TapField where
  | sd
  | amt
  | rate
  | phase
  | counter
  | mod
  | da
  | db
  | ga
  | gb
  | widx
  deriving DecidableEq, Repr

inductive ApfField where
  | tap (f : TapField)
  | g
  | modEn
  deriving DecidableEq, Repr

inductive DiffField where
  | count
  | seed
  | cs
  | nomDelay
  | nomAmt
  | nomRate
  | g
  | modEn
  | vec (k : Fin 36)
  deriving DecidableEq, Repr

inductive MtField where
  | count
  | len
  | decay
  | seed
  | cs
  | widx
  | gain (j : Fin 256)
  | pos (j : Fin 256)
  | w (j : Fin 256)
  | idx (j : Fin 256)
  deriving DecidableEq, Repr

inductive LineField where
  | gain
  | fbLevel
  | fbRdPtr
  deriving DecidableEq, Repr

inductive ChanField where
  | cs
  | lineCount
  | nomLine
  | decaySamples
  | lineVec (k : Fin 36)
  deriving DecidableEq, Repr

/-- A field of a unit: the unit of a kind with a field of that kind (46_diagnostic.md R501). -/
inductive FieldRef where
  | onePole (u : OnePoleRef) (f : OnePoleField)
  | biquad (u : BiquadRef) (f : BiquadField)
  | apf (d : DiffRef) (s : Fin 12) (f : ApfField)
  | mdly (u : MdlyRef) (f : TapField)
  | diff (u : DiffRef) (f : DiffField)
  | mt (f : MtField)
  | line (l : Fin 12) (f : LineField)
  | chan (f : ChanField)
  deriving DecidableEq, Repr

/-- What an RDER reads: RNG's X, or a field of a unit of one channel (46_diagnostic.md R503). -/
inductive RderRef where
  | rng
  | unit (c : Chan) (f : FieldRef)
  deriving DecidableEq, Repr

/-- What a WDER writes, with the clamped word: RNG's X, or a field of a unit of each selected channel
(46_diagnostic.md R504). -/
inductive WderRef where
  | rng (v : Word)
  | unit (f : FieldRef) (v : Word)
  deriving DecidableEq, Repr

/-- How WDER may write a field (46_diagnostic.md R501, column W). -/
inductive WriteType where
  /-- not marked W -/
  | readOnly
  /-- F, any non-NaN -/
  | anyFloat
  /-- F, clampf [lo, hi] -/
  | float (lo hi : F32)
  /-- U, clampi [lo, hi] -/
  | unsigned (lo hi : Nat)
  deriving DecidableEq, Repr

/-- What an enable register's change clears (45_control.md R457). -/
inductive EnableTarget where
  | hpc
  | lpc
  | mt
  | ed
  | lineDif
  | lineLsh
  | lineHsh
  | lineDamp
  deriving DecidableEq, Repr

/-- The write-effect groups of 45_control.md R456. -/
inductive Effect where
  | none
  | enable (t : EnableTarget)
  | hpc
  | lpc
  | bqx
  | pre
  | mt
  | mtSeed
  | ed
  | edCount
  | edG
  | edMod
  | edSeed
  | ldif
  | ldifCount
  | ldifG
  | ldifMod
  | ldifSeed
  | lsh
  | hsh
  | damp
  | lines
  | xseed
  deriving DecidableEq, Repr

/-- The sample and vector regions of the host window (20_memory.md R121). -/
inductive Region where
  | inL
  | inR
  | outL
  | outR
  | vec
  deriving DecidableEq, Repr

/-- The widths a host access can have; only the word is served (20_memory.md R123). -/
inductive Width where
  | byte
  | half
  | word
  | double
  deriving DecidableEq, Repr

/-- One host access: a load or a store at an 18-bit byte address of the host window (20_memory.md R120, R123). -/
inductive HostAccess where
  | read (width : Width) (addr : BitVec 18)
  | write (width : Width) (addr : BitVec 18) (value : Word)
  deriving DecidableEq, Repr

/-- One turn of the interleaving of the two agents (20_memory.md R129): the core's, or one host access. -/
inductive Turn where
  | core
  | host (a : HostAccess)
  deriving DecidableEq, Repr

end Sys2Proof.Machine
end

