-- ==== Sys2Proof/Machine/Registers.lean ====
section
/-!
DEFINITION. The control register file (10_state.md R50-R55): SEL numbers, types, ranges, reset values, write-effect
groups, the stored values, and reading and writing one register as a word.
-/

namespace Sys2Proof.Machine

/-- A bit as a zero-extended word. -/
def boolWord (b : Bool) : Word := if b then 1 else 0

/-- The register a SEL number names; the reserved numbers of 10_state.md R54 name none (R53). -/
def Reg.ofSel (sel : BitVec 12) : Option Reg :=
  match sel.toNat with
  | 0x000 => some (.glob .fs)
  | 0x001 => some (.glob .inputMix)
  | 0x002 => some (.glob .interpEn)
  | 0x004 => some (.chan .bqxType)
  | 0x005 => some (.chan .bqxHz)
  | 0x006 => some (.chan .bqxDb)
  | 0x007 => some (.chan .bqxQ)
  | 0x010 => some (.chan .lowcutEn)
  | 0x011 => some (.chan .highcutEn)
  | 0x012 => some (.chan .lowcutHz)
  | 0x013 => some (.chan .highcutHz)
  | 0x014 => some (.chan .dryOut)
  | 0x015 => some (.chan .earlyOut)
  | 0x016 => some (.chan .lateOut)
  | 0x018 => some (.chan .tapEn)
  | 0x019 => some (.chan .tapCount)
  | 0x01A => some (.chan .tapDecay)
  | 0x01B => some (.chan .tapPredelayMs)
  | 0x01C => some (.chan .tapLengthMs)
  | 0x020 => some (.chan .edifEn)
  | 0x021 => some (.chan .edifCount)
  | 0x022 => some (.chan .edifDelayMs)
  | 0x023 => some (.chan .edifFeedback)
  | 0x024 => some (.chan .edifModAmtMs)
  | 0x025 => some (.chan .edifModRateHz)
  | 0x026 => some (.chan .edifModEn)
  | 0x028 => some (.chan .lateTapPost)
  | 0x029 => some (.chan .lateLineCount)
  | 0x02A => some (.chan .lateDifEn)
  | 0x02B => some (.chan .lateDifCount)
  | 0x02C => some (.chan .lateLineSizeMs)
  | 0x02D => some (.chan .lateLineModAmtMs)
  | 0x02E => some (.chan .lateDifDelayMs)
  | 0x02F => some (.chan .lateDifModAmtMs)
  | 0x030 => some (.chan .lateLineDecayS)
  | 0x031 => some (.chan .lateLineModRateHz)
  | 0x032 => some (.chan .lateDifFeedback)
  | 0x033 => some (.chan .lateDifModRateHz)
  | 0x034 => some (.chan .lateDifModEn)
  | 0x038 => some (.chan .eqLshEn)
  | 0x039 => some (.chan .eqHshEn)
  | 0x03A => some (.chan .eqLpEn)
  | 0x03B => some (.chan .eqLshHz)
  | 0x03C => some (.chan .eqHshHz)
  | 0x03D => some (.chan .eqLpHz)
  | 0x03E => some (.chan .eqLshDb)
  | 0x03F => some (.chan .eqHshDb)
  | 0x040 => some (.chan .crossSeed)
  | 0x041 => some (.chan .seedTap)
  | 0x042 => some (.chan .seedDiffusion)
  | 0x043 => some (.chan .seedDelay)
  | 0x044 => some (.chan .seedPostdiffusion)
  | _ => none

/-- Type and range of a global register (10_state.md R53). -/
def GReg.type : GReg → RegType
  | .fs => .float Config.fsMin Config.fsMax
  | .inputMix => .float F32.zero F32.one
  | .interpEn => .bool

/-- Type and range of a per-channel register (10_state.md R53). -/
def CReg.type : CReg → RegType
  | .bqxType => .enum 8
  | .bqxHz => .float F32.zero F32.e6
  | .bqxDb => .float (F32.neg F32.thousand) F32.thousand
  | .bqxQ => .float F32.zero F32.thousand
  | .lowcutEn => .bool
  | .highcutEn => .bool
  | .lowcutHz => .float F32.zero F32.e6
  | .highcutHz => .float F32.zero F32.e6
  | .dryOut => .float F32.zero F32.one
  | .earlyOut => .float F32.zero F32.one
  | .lateOut => .float F32.zero F32.one
  | .tapEn => .bool
  | .tapCount => .unsigned 1 256
  | .tapDecay => .float F32.zero F32.one
  | .tapPredelayMs => .float F32.zero F32.e6
  | .tapLengthMs => .float F32.zero F32.e6
  | .edifEn => .bool
  | .edifCount => .unsigned 1 12
  | .edifDelayMs => .float F32.zero F32.e6
  | .edifFeedback => .float F32.zero F32.c0999
  | .edifModAmtMs => .float F32.zero F32.e6
  | .edifModRateHz => .float F32.zero F32.e4
  | .edifModEn => .bool
  | .lateTapPost => .bool
  | .lateLineCount => .unsigned 1 12
  | .lateDifEn => .bool
  | .lateDifCount => .unsigned 1 12
  | .lateLineSizeMs => .float F32.zero F32.e6
  | .lateLineModAmtMs => .float F32.zero F32.e6
  | .lateDifDelayMs => .float F32.zero F32.e6
  | .lateDifModAmtMs => .float F32.zero F32.e6
  | .lateLineDecayS => .float F32.zero F32.e6
  | .lateLineModRateHz => .float F32.zero F32.e4
  | .lateDifFeedback => .float F32.zero F32.c0999
  | .lateDifModRateHz => .float F32.zero F32.e4
  | .lateDifModEn => .bool
  | .eqLshEn => .bool
  | .eqHshEn => .bool
  | .eqLpEn => .bool
  | .eqLshHz => .float F32.zero F32.e6
  | .eqHshHz => .float F32.zero F32.e6
  | .eqLpHz => .float F32.zero F32.e6
  | .eqLshDb => .float (F32.neg F32.thousand) F32.thousand
  | .eqHshDb => .float (F32.neg F32.thousand) F32.thousand
  | .crossSeed => .float F32.zero F32.one
  | .seedTap => .unsigned 0 0xFFFFFFFF
  | .seedDiffusion => .unsigned 0 0xFFFFFFFF
  | .seedDelay => .unsigned 0 0xFFFFFFFF
  | .seedPostdiffusion => .unsigned 0 0xFFFFFFFF

/-- Type and range of a register (10_state.md R53). -/
def Reg.type : Reg → RegType
  | .glob r => r.type
  | .chan r => r.type

/-- The value a WREG word stores in a register of this type, or none where the word is refused with BAD_VALUE
(10_state.md R50, 45_control.md R452). -/
def RegType.accept : RegType → Word → Option Word
  | .float lo hi, w => if F32.isNaN ⟨w⟩ then none else some (F32.clamp ⟨w⟩ lo hi).bits
  | .bool, w => some (boolWord (w != 0))
  | .unsigned lo hi, w => some (BitVec.ofNat 32 (clampi w.toNat lo hi))
  | .enum hi, w => if hi < w.toNat then none else some w

/-- A stored word is legal for its type (10_state.md R50 "a read always returns a legal stored value"). -/
def RegType.legal : RegType → Word → Bool
  | .float lo hi, w => F32.ge ⟨w⟩ lo && F32.ge hi ⟨w⟩
  | .bool, w => w == 0 || w == 1
  | .unsigned lo hi, w => decide (lo ≤ w.toNat) && decide (w.toNat ≤ hi)
  | .enum hi, w => decide (w.toNat ≤ hi)

/-- The write-effect group of a register (10_state.md R53, 45_control.md R456). -/
def CReg.effect : CReg → Effect
  | .bqxType => .bqx
  | .bqxHz => .bqx
  | .bqxDb => .bqx
  | .bqxQ => .bqx
  | .lowcutEn => .enable .hpc
  | .highcutEn => .enable .lpc
  | .lowcutHz => .hpc
  | .highcutHz => .lpc
  | .dryOut => .none
  | .earlyOut => .none
  | .lateOut => .none
  | .tapEn => .enable .mt
  | .tapCount => .mt
  | .tapDecay => .mt
  | .tapPredelayMs => .pre
  | .tapLengthMs => .mt
  | .edifEn => .enable .ed
  | .edifCount => .edCount
  | .edifDelayMs => .ed
  | .edifFeedback => .edG
  | .edifModAmtMs => .ed
  | .edifModRateHz => .ed
  | .edifModEn => .edMod
  | .lateTapPost => .none
  | .lateLineCount => .none
  | .lateDifEn => .enable .lineDif
  | .lateDifCount => .ldifCount
  | .lateLineSizeMs => .lines
  | .lateLineModAmtMs => .lines
  | .lateDifDelayMs => .ldif
  | .lateDifModAmtMs => .ldif
  | .lateLineDecayS => .lines
  | .lateLineModRateHz => .lines
  | .lateDifFeedback => .ldifG
  | .lateDifModRateHz => .ldif
  | .lateDifModEn => .ldifMod
  | .eqLshEn => .enable .lineLsh
  | .eqHshEn => .enable .lineHsh
  | .eqLpEn => .enable .lineDamp
  | .eqLshHz => .lsh
  | .eqHshHz => .hsh
  | .eqLpHz => .damp
  | .eqLshDb => .lsh
  | .eqHshDb => .hsh
  | .crossSeed => .xseed
  | .seedTap => .mtSeed
  | .seedDiffusion => .edSeed
  | .seedDelay => .lines
  | .seedPostdiffusion => .ldifSeed

/-- The global registers (10_state.md R52, R53). -/
structure GlobRegs where
  /-- FS -/
  fs : F32
  /-- INPUT_MIX -/
  inputMix : F32
  /-- INTERP_EN -/
  interpEn : Bool
  deriving DecidableEq, Repr

/-- The reset values of the global registers (10_state.md R53). -/
def GlobRegs.reset : GlobRegs where
  fs := ⟨0x473B8000⟩
  inputMix := ⟨0x00000000⟩
  interpEn := true

/-- The stored word of a global register (10_state.md R50). -/
def GlobRegs.get (g : GlobRegs) : GReg → Word
  | .fs => g.fs.bits
  | .inputMix => g.inputMix.bits
  | .interpEn => boolWord g.interpEn

/-- Store a word in a global register (10_state.md R51). -/
def GlobRegs.set (g : GlobRegs) (r : GReg) (w : Word) : GlobRegs :=
  match r with
  | .fs => { g with fs := ⟨w⟩ }
  | .inputMix => { g with inputMix := ⟨w⟩ }
  | .interpEn => { g with interpEn := w != 0 }

/-- The per-channel registers of one channel, named as 10_state.md R53 names them. -/
structure ChanRegs where
  /-- BQX_TYPE -/
  bqxType : Word
  /-- BQX_HZ -/
  bqxHz : F32
  /-- BQX_DB -/
  bqxDb : F32
  /-- BQX_Q -/
  bqxQ : F32
  /-- LOWCUT_EN -/
  lowcutEn : Bool
  /-- HIGHCUT_EN -/
  highcutEn : Bool
  /-- LOWCUT_HZ -/
  lowcutHz : F32
  /-- HIGHCUT_HZ -/
  highcutHz : F32
  /-- DRY_OUT -/
  dryOut : F32
  /-- EARLY_OUT -/
  earlyOut : F32
  /-- LATE_OUT -/
  lateOut : F32
  /-- TAP_EN -/
  tapEn : Bool
  /-- TAP_COUNT -/
  tapCount : Word
  /-- TAP_DECAY -/
  tapDecay : F32
  /-- TAP_PREDELAY_MS -/
  tapPredelayMs : F32
  /-- TAP_LENGTH_MS -/
  tapLengthMs : F32
  /-- EDIF_EN -/
  edifEn : Bool
  /-- EDIF_COUNT -/
  edifCount : Word
  /-- EDIF_DELAY_MS -/
  edifDelayMs : F32
  /-- EDIF_FEEDBACK -/
  edifFeedback : F32
  /-- EDIF_MOD_AMT_MS -/
  edifModAmtMs : F32
  /-- EDIF_MOD_RATE_HZ -/
  edifModRateHz : F32
  /-- EDIF_MOD_EN -/
  edifModEn : Bool
  /-- LATE_TAP_POST -/
  lateTapPost : Bool
  /-- LATE_LINE_COUNT -/
  lateLineCount : Word
  /-- LATE_DIF_EN -/
  lateDifEn : Bool
  /-- LATE_DIF_COUNT -/
  lateDifCount : Word
  /-- LATE_LINE_SIZE_MS -/
  lateLineSizeMs : F32
  /-- LATE_LINE_MOD_AMT_MS -/
  lateLineModAmtMs : F32
  /-- LATE_DIF_DELAY_MS -/
  lateDifDelayMs : F32
  /-- LATE_DIF_MOD_AMT_MS -/
  lateDifModAmtMs : F32
  /-- LATE_LINE_DECAY_S -/
  lateLineDecayS : F32
  /-- LATE_LINE_MOD_RATE_HZ -/
  lateLineModRateHz : F32
  /-- LATE_DIF_FEEDBACK -/
  lateDifFeedback : F32
  /-- LATE_DIF_MOD_RATE_HZ -/
  lateDifModRateHz : F32
  /-- LATE_DIF_MOD_EN -/
  lateDifModEn : Bool
  /-- EQ_LSH_EN -/
  eqLshEn : Bool
  /-- EQ_HSH_EN -/
  eqHshEn : Bool
  /-- EQ_LP_EN -/
  eqLpEn : Bool
  /-- EQ_LSH_HZ -/
  eqLshHz : F32
  /-- EQ_HSH_HZ -/
  eqHshHz : F32
  /-- EQ_LP_HZ -/
  eqLpHz : F32
  /-- EQ_LSH_DB -/
  eqLshDb : F32
  /-- EQ_HSH_DB -/
  eqHshDb : F32
  /-- CROSS_SEED -/
  crossSeed : F32
  /-- SEED_TAP -/
  seedTap : Word
  /-- SEED_DIFFUSION -/
  seedDiffusion : Word
  /-- SEED_DELAY -/
  seedDelay : Word
  /-- SEED_POSTDIFFUSION -/
  seedPostdiffusion : Word
  deriving DecidableEq, Repr

/-- The reset values of the per-channel registers (10_state.md R53). -/
def ChanRegs.reset : ChanRegs where
  bqxType := 0
  bqxHz := ⟨0x447A0000⟩
  bqxDb := ⟨0x00000000⟩
  bqxQ := ⟨0x3F3504F3⟩
  lowcutEn := false
  highcutEn := false
  lowcutHz := ⟨0x41A00000⟩
  highcutHz := ⟨0x469C4000⟩
  dryOut := ⟨0x3F800000⟩
  earlyOut := ⟨0x00000000⟩
  lateOut := ⟨0x00000000⟩
  tapEn := false
  tapCount := 1
  tapDecay := ⟨0x00000000⟩
  tapPredelayMs := ⟨0x00000000⟩
  tapLengthMs := ⟨0x00000000⟩
  edifEn := false
  edifCount := 1
  edifDelayMs := ⟨0x00000000⟩
  edifFeedback := ⟨0x00000000⟩
  edifModAmtMs := ⟨0x00000000⟩
  edifModRateHz := ⟨0x00000000⟩
  edifModEn := true
  lateTapPost := false
  lateLineCount := 1
  lateDifEn := false
  lateDifCount := 1
  lateLineSizeMs := ⟨0x00000000⟩
  lateLineModAmtMs := ⟨0x00000000⟩
  lateDifDelayMs := ⟨0x00000000⟩
  lateDifModAmtMs := ⟨0x00000000⟩
  lateLineDecayS := ⟨0x00000000⟩
  lateLineModRateHz := ⟨0x00000000⟩
  lateDifFeedback := ⟨0x00000000⟩
  lateDifModRateHz := ⟨0x00000000⟩
  lateDifModEn := true
  eqLshEn := false
  eqHshEn := false
  eqLpEn := false
  eqLshHz := ⟨0x41A00000⟩
  eqHshHz := ⟨0x469C4000⟩
  eqLpHz := ⟨0x469C4000⟩
  eqLshDb := ⟨0x00000000⟩
  eqHshDb := ⟨0x00000000⟩
  crossSeed := ⟨0x00000000⟩
  seedTap := 0
  seedDiffusion := 0
  seedDelay := 0
  seedPostdiffusion := 0

/-- The stored word of a per-channel register (10_state.md R50). -/
def ChanRegs.get (r : ChanRegs) : CReg → Word
  | .bqxType => r.bqxType
  | .bqxHz => r.bqxHz.bits
  | .bqxDb => r.bqxDb.bits
  | .bqxQ => r.bqxQ.bits
  | .lowcutEn => boolWord r.lowcutEn
  | .highcutEn => boolWord r.highcutEn
  | .lowcutHz => r.lowcutHz.bits
  | .highcutHz => r.highcutHz.bits
  | .dryOut => r.dryOut.bits
  | .earlyOut => r.earlyOut.bits
  | .lateOut => r.lateOut.bits
  | .tapEn => boolWord r.tapEn
  | .tapCount => r.tapCount
  | .tapDecay => r.tapDecay.bits
  | .tapPredelayMs => r.tapPredelayMs.bits
  | .tapLengthMs => r.tapLengthMs.bits
  | .edifEn => boolWord r.edifEn
  | .edifCount => r.edifCount
  | .edifDelayMs => r.edifDelayMs.bits
  | .edifFeedback => r.edifFeedback.bits
  | .edifModAmtMs => r.edifModAmtMs.bits
  | .edifModRateHz => r.edifModRateHz.bits
  | .edifModEn => boolWord r.edifModEn
  | .lateTapPost => boolWord r.lateTapPost
  | .lateLineCount => r.lateLineCount
  | .lateDifEn => boolWord r.lateDifEn
  | .lateDifCount => r.lateDifCount
  | .lateLineSizeMs => r.lateLineSizeMs.bits
  | .lateLineModAmtMs => r.lateLineModAmtMs.bits
  | .lateDifDelayMs => r.lateDifDelayMs.bits
  | .lateDifModAmtMs => r.lateDifModAmtMs.bits
  | .lateLineDecayS => r.lateLineDecayS.bits
  | .lateLineModRateHz => r.lateLineModRateHz.bits
  | .lateDifFeedback => r.lateDifFeedback.bits
  | .lateDifModRateHz => r.lateDifModRateHz.bits
  | .lateDifModEn => boolWord r.lateDifModEn
  | .eqLshEn => boolWord r.eqLshEn
  | .eqHshEn => boolWord r.eqHshEn
  | .eqLpEn => boolWord r.eqLpEn
  | .eqLshHz => r.eqLshHz.bits
  | .eqHshHz => r.eqHshHz.bits
  | .eqLpHz => r.eqLpHz.bits
  | .eqLshDb => r.eqLshDb.bits
  | .eqHshDb => r.eqHshDb.bits
  | .crossSeed => r.crossSeed.bits
  | .seedTap => r.seedTap
  | .seedDiffusion => r.seedDiffusion
  | .seedDelay => r.seedDelay
  | .seedPostdiffusion => r.seedPostdiffusion

/-- Store a word in a per-channel register (10_state.md R51). -/
def ChanRegs.set (r : ChanRegs) (c : CReg) (w : Word) : ChanRegs :=
  match c with
  | .bqxType => { r with bqxType := w }
  | .bqxHz => { r with bqxHz := ⟨w⟩ }
  | .bqxDb => { r with bqxDb := ⟨w⟩ }
  | .bqxQ => { r with bqxQ := ⟨w⟩ }
  | .lowcutEn => { r with lowcutEn := w != 0 }
  | .highcutEn => { r with highcutEn := w != 0 }
  | .lowcutHz => { r with lowcutHz := ⟨w⟩ }
  | .highcutHz => { r with highcutHz := ⟨w⟩ }
  | .dryOut => { r with dryOut := ⟨w⟩ }
  | .earlyOut => { r with earlyOut := ⟨w⟩ }
  | .lateOut => { r with lateOut := ⟨w⟩ }
  | .tapEn => { r with tapEn := w != 0 }
  | .tapCount => { r with tapCount := w }
  | .tapDecay => { r with tapDecay := ⟨w⟩ }
  | .tapPredelayMs => { r with tapPredelayMs := ⟨w⟩ }
  | .tapLengthMs => { r with tapLengthMs := ⟨w⟩ }
  | .edifEn => { r with edifEn := w != 0 }
  | .edifCount => { r with edifCount := w }
  | .edifDelayMs => { r with edifDelayMs := ⟨w⟩ }
  | .edifFeedback => { r with edifFeedback := ⟨w⟩ }
  | .edifModAmtMs => { r with edifModAmtMs := ⟨w⟩ }
  | .edifModRateHz => { r with edifModRateHz := ⟨w⟩ }
  | .edifModEn => { r with edifModEn := w != 0 }
  | .lateTapPost => { r with lateTapPost := w != 0 }
  | .lateLineCount => { r with lateLineCount := w }
  | .lateDifEn => { r with lateDifEn := w != 0 }
  | .lateDifCount => { r with lateDifCount := w }
  | .lateLineSizeMs => { r with lateLineSizeMs := ⟨w⟩ }
  | .lateLineModAmtMs => { r with lateLineModAmtMs := ⟨w⟩ }
  | .lateDifDelayMs => { r with lateDifDelayMs := ⟨w⟩ }
  | .lateDifModAmtMs => { r with lateDifModAmtMs := ⟨w⟩ }
  | .lateLineDecayS => { r with lateLineDecayS := ⟨w⟩ }
  | .lateLineModRateHz => { r with lateLineModRateHz := ⟨w⟩ }
  | .lateDifFeedback => { r with lateDifFeedback := ⟨w⟩ }
  | .lateDifModRateHz => { r with lateDifModRateHz := ⟨w⟩ }
  | .lateDifModEn => { r with lateDifModEn := w != 0 }
  | .eqLshEn => { r with eqLshEn := w != 0 }
  | .eqHshEn => { r with eqHshEn := w != 0 }
  | .eqLpEn => { r with eqLpEn := w != 0 }
  | .eqLshHz => { r with eqLshHz := ⟨w⟩ }
  | .eqHshHz => { r with eqHshHz := ⟨w⟩ }
  | .eqLpHz => { r with eqLpHz := ⟨w⟩ }
  | .eqLshDb => { r with eqLshDb := ⟨w⟩ }
  | .eqHshDb => { r with eqHshDb := ⟨w⟩ }
  | .crossSeed => { r with crossSeed := ⟨w⟩ }
  | .seedTap => { r with seedTap := w }
  | .seedDiffusion => { r with seedDiffusion := w }
  | .seedDelay => { r with seedDelay := w }
  | .seedPostdiffusion => { r with seedPostdiffusion := w }

end Sys2Proof.Machine
end

