-- ==== Sys2Proof/Machine/Units.lean ====
section
/-!
DEFINITION. The DSP unit state of one channel (10_state.md R60-R68) as plain data, one structure per unit kind, and
the two containers it needs: a sparse sample buffer and a row of twelve like units.
-/

namespace Sys2Proof.Machine

/-! ### Twelve of a kind -/

/-- The 12 lines of a channel, or the 12 stages of a diffuser; all exist whatever the active counts are
(10_state.md R60). -/
structure Twelve (α : Type) where
  i0 : α
  i1 : α
  i2 : α
  i3 : α
  i4 : α
  i5 : α
  i6 : α
  i7 : α
  i8 : α
  i9 : α
  i10 : α
  i11 : α
  deriving DecidableEq, Repr

/-- Element k. -/
def Twelve.get {α : Type} (t : Twelve α) (k : Fin 12) : α :=
  match k with
  | 0 => t.i0
  | 1 => t.i1
  | 2 => t.i2
  | 3 => t.i3
  | 4 => t.i4
  | 5 => t.i5
  | 6 => t.i6
  | 7 => t.i7
  | 8 => t.i8
  | 9 => t.i9
  | 10 => t.i10
  | 11 => t.i11

/-- Replace element k. -/
def Twelve.set {α : Type} (t : Twelve α) (k : Fin 12) (x : α) : Twelve α :=
  match k with
  | 0 => { t with i0 := x }
  | 1 => { t with i1 := x }
  | 2 => { t with i2 := x }
  | 3 => { t with i3 := x }
  | 4 => { t with i4 := x }
  | 5 => { t with i5 := x }
  | 6 => { t with i6 := x }
  | 7 => { t with i7 := x }
  | 8 => { t with i8 := x }
  | 9 => { t with i9 := x }
  | 10 => { t with i10 := x }
  | 11 => { t with i11 := x }

/-- The row whose element k is `f k`. -/
def Twelve.ofFn {α : Type} (f : Fin 12 → α) : Twelve α where
  i0 := f 0
  i1 := f 1
  i2 := f 2
  i3 := f 3
  i4 := f 4
  i5 := f 5
  i6 := f 6
  i7 := f 7
  i8 := f 8
  i9 := f 9
  i10 := f 10
  i11 := f 11

/-- Apply f to every element. -/
def Twelve.map {α β : Type} (f : α → β) (t : Twelve α) : Twelve β where
  i0 := f t.i0
  i1 := f t.i1
  i2 := f t.i2
  i3 := f t.i3
  i4 := f t.i4
  i5 := f t.i5
  i6 := f t.i6
  i7 := f t.i7
  i8 := f t.i8
  i9 := f t.i9
  i10 := f t.i10
  i11 := f t.i11

/-- Apply f to every element with its number. -/
def Twelve.mapIdx {α β : Type} (f : Fin 12 → α → β) (t : Twelve α) : Twelve β where
  i0 := f 0 t.i0
  i1 := f 1 t.i1
  i2 := f 2 t.i2
  i3 := f 3 t.i3
  i4 := f 4 t.i4
  i5 := f 5 t.i5
  i6 := f 6 t.i6
  i7 := f 7 t.i7
  i8 := f 8 t.i8
  i9 := f 9 t.i9
  i10 := f 10 t.i10
  i11 := f 11 t.i11

/-- p holds of every element. -/
def Twelve.all {α : Type} (p : α → Bool) (t : Twelve α) : Bool :=
  p t.i0 && p t.i1 && p t.i2 && p t.i3 && p t.i4 && p t.i5 && p t.i6 && p t.i7 && p t.i8 && p t.i9 && p t.i10 && p t.i11

/-! ### Sample buffers -/

/-- A sample buffer of N cells: the cells that do not hold +0, strictly rising by index. A cell not listed holds +0,
so a cleared buffer is the empty list and equal buffers are equal lists. -/
abbrev Buf := List (Nat × F32)

/-- The canonical form: indexes strictly rising, no cell listed with +0. -/
def Buf.wf : Buf → Bool
  | [] => true
  | (i, x) :: rest =>
    (x != F32.zero) && (match rest with
      | [] => true
      | (j, _) :: _ => decide (i < j)) && Buf.wf rest

/-- Cell i. -/
def Buf.get (b : Buf) (i : Nat) : F32 :=
  match b with
  | [] => F32.zero
  | (j, x) :: rest => if j = i then x else Buf.get rest i

/-- Put cell (i, x) in front, unless it is +0. -/
def Buf.put (i : Nat) (x : F32) (rest : Buf) : Buf := if x = F32.zero then rest else (i, x) :: rest

/-- Store x in cell i, keeping the canonical form. -/
def Buf.set (b : Buf) (i : Nat) (x : F32) : Buf :=
  match b with
  | [] => Buf.put i x []
  | (j, y) :: rest =>
    if i < j then Buf.put i x ((j, y) :: rest)
    else if i = j then Buf.put i x rest
    else (j, y) :: Buf.set rest i x

/-- `(w - d) mod N`, always in 0..N-1 (00_scope.md R13). -/
def wrapBack (n w : Nat) (d : Int) : Nat := (((w : Int) - d) % (n : Int)).toNat

/-! ### Units -/

/-- ONEPOLE state (10_state.md R61). -/
structure OnePole where
  /-- MODE: true is 1, high-pass -/
  highPass : Bool
  cutoff : F32
  a1 : F32
  b0 : F32
  y : F32
  deriving DecidableEq, Repr

/-- BIQUAD state (10_state.md R62). -/
structure Biquad where
  type : BqType
  freq : F32
  gainDb : F32
  q : F32
  b0 : F32
  b1 : F32
  b2 : F32
  a1 : F32
  a2 : F32
  x1 : F32
  x2 : F32
  y1 : F32
  y2 : F32
  deriving DecidableEq, Repr

/-- A modulated tap with its buffer (10_state.md R63, R64; 42_allpass_delay.md R300): the whole state of an MDLY, and
the state of an APF stage but for G and MOD_EN. -/
structure Tap where
  buf : Buf
  widx : Nat
  sd : Nat
  amt : F32
  rate : F32
  phase : F32
  counter : Nat
  mod : F32
  da : Nat
  db : Nat
  ga : F32
  gb : F32
  deriving DecidableEq, Repr

/-- APF state, a modulated all-pass stage (10_state.md R63). -/
structure Apf where
  tap : Tap
  g : F32
  modEn : Bool
  deriving DecidableEq, Repr

/-- DIFF state, a diffuser (10_state.md R65). -/
structure Diff where
  count : Nat
  seed : Word
  cs : F32
  vec : List F32
  nomDelay : F32
  nomAmt : F32
  nomRate : F32
  g : F32
  modEn : Bool
  stages : Twelve Apf
  deriving DecidableEq, Repr

/-- MT state, the multi-tap delay (10_state.md R66, 43_multitap.md R360). -/
structure Mt where
  buf : Buf
  widx : Nat
  count : Nat
  len : F32
  decay : F32
  seed : Word
  cs : F32
  gain : List F32
  pos : List F32
  idx : List Int
  w : List F32
  deriving DecidableEq, Repr

/-- A line's feedback FIFO (10_state.md R67, 44_fdn_channel.md R390). -/
structure Fifo where
  cells : Buf
  rd : Nat
  level : Nat
  deriving DecidableEq, Repr

/-- LINE state (10_state.md R67). -/
structure Line where
  gain : F32
  fb : Fifo
  mdly : Tap
  dif : Diff
  lsh : Biquad
  hsh : Biquad
  damp : OnePole
  deriving DecidableEq, Repr

/-- One channel: its registers, its units and its derived state (10_state.md R53, R60, R68). -/
structure Channel where
  regs : ChanRegs
  hpc : OnePole
  lpc : OnePole
  pre : Tap
  mt : Mt
  ed : Diff
  bqx : Biquad
  lines : Twelve Line
  cs : F32
  lineVec : List F32
  nomLine : F32
  decaySamples : F32
  deriving DecidableEq, Repr

/-! ### The state before derivation: every field 70_reset_and_hazards.md R600 zeroes -/

/-- A one-pole before its derivation. -/
def OnePole.blank (highPass : Bool) : OnePole where
  highPass := highPass
  cutoff := F32.zero
  a1 := F32.zero
  b0 := F32.zero
  y := F32.zero

/-- A biquad before its derivation. -/
def Biquad.blank (type : BqType) : Biquad where
  type := type
  freq := F32.zero
  gainDb := F32.zero
  q := F32.zero
  b0 := F32.zero
  b1 := F32.zero
  b2 := F32.zero
  a1 := F32.zero
  a2 := F32.zero
  x1 := F32.zero
  x2 := F32.zero
  y1 := F32.zero
  y2 := F32.zero

/-- A tap with an empty buffer, its pointer, phase, counter and LFO value at 0 (70_reset_and_hazards.md R600). -/
def Tap.blank : Tap where
  buf := []
  widx := 0
  sd := 1
  amt := F32.zero
  rate := F32.zero
  phase := F32.zero
  counter := 0
  mod := F32.zero
  da := 1
  db := 2
  ga := F32.one
  gb := F32.zero

/-- An all-pass stage before its derivation. -/
def Apf.blank : Apf where
  tap := Tap.blank
  g := F32.zero
  modEn := true

/-- A diffuser before its reseed and derivation. -/
def Diff.blank : Diff where
  count := 1
  seed := 0
  cs := F32.zero
  vec := []
  nomDelay := F32.zero
  nomAmt := F32.zero
  nomRate := F32.zero
  g := F32.zero
  modEn := true
  stages := Twelve.ofFn (fun _ => Apf.blank)

/-- A multi-tap before its reseed and derivation; IDX and W hold 0 and +0 (assumption log 15). -/
def Mt.blank : Mt where
  buf := []
  widx := 0
  count := 1
  len := F32.zero
  decay := F32.zero
  seed := 0
  cs := F32.zero
  gain := []
  pos := []
  idx := List.replicate Config.maxTaps 0
  w := List.replicate Config.maxTaps F32.zero

/-- A line before UpdateLines and its units' derivation. -/
def Line.blank : Line where
  gain := F32.zero
  fb := { cells := [], rd := 0, level := 0 }
  mdly := Tap.blank
  dif := Diff.blank
  lsh := Biquad.blank .lsh
  hsh := Biquad.blank .hsh
  damp := OnePole.blank false

/-- A channel with its registers at reset and its units not yet derived (70_reset_and_hazards.md R600). -/
def Channel.blank : Channel where
  regs := ChanRegs.reset
  hpc := OnePole.blank true
  lpc := OnePole.blank false
  pre := Tap.blank
  mt := Mt.blank
  ed := Diff.blank
  bqx := Biquad.blank .lp6
  lines := Twelve.ofFn (fun _ => Line.blank)
  cs := F32.zero
  lineVec := []
  nomLine := F32.zero
  decaySamples := F32.zero

/-! ### Units by reference (46_diagnostic.md R500) -/

/-- The one-pole a reference names. -/
def Channel.onePole (c : Channel) : OnePoleRef → OnePole
  | .hpc => c.hpc
  | .lpc => c.lpc
  | .damp l => (c.lines.get l).damp

/-- Replace the one-pole a reference names. -/
def Channel.setOnePole (c : Channel) (r : OnePoleRef) (u : OnePole) : Channel :=
  match r with
  | .hpc => { c with hpc := u }
  | .lpc => { c with lpc := u }
  | .damp l => { c with lines := c.lines.set l { c.lines.get l with damp := u } }

/-- The biquad a reference names. -/
def Channel.biquad (c : Channel) : BiquadRef → Biquad
  | .bqx => c.bqx
  | .lsh l => (c.lines.get l).lsh
  | .hsh l => (c.lines.get l).hsh

/-- Replace the biquad a reference names. -/
def Channel.setBiquad (c : Channel) (r : BiquadRef) (u : Biquad) : Channel :=
  match r with
  | .bqx => { c with bqx := u }
  | .lsh l => { c with lines := c.lines.set l { c.lines.get l with lsh := u } }
  | .hsh l => { c with lines := c.lines.set l { c.lines.get l with hsh := u } }

/-- The plain delay a reference names. -/
def Channel.mdly (c : Channel) : MdlyRef → Tap
  | .pre => c.pre
  | .line l => (c.lines.get l).mdly

/-- Replace the plain delay a reference names. -/
def Channel.setMdly (c : Channel) (r : MdlyRef) (u : Tap) : Channel :=
  match r with
  | .pre => { c with pre := u }
  | .line l => { c with lines := c.lines.set l { c.lines.get l with mdly := u } }

/-- The diffuser a reference names. -/
def Channel.diff (c : Channel) : DiffRef → Diff
  | .ed => c.ed
  | .line l => (c.lines.get l).dif

/-- Replace the diffuser a reference names. -/
def Channel.setDiff (c : Channel) (r : DiffRef) (u : Diff) : Channel :=
  match r with
  | .ed => { c with ed := u }
  | .line l => { c with lines := c.lines.set l { c.lines.get l with dif := u } }

/-- Stage s of the diffuser a reference names. -/
def Channel.apf (c : Channel) (d : DiffRef) (s : Fin 12) : Apf := (c.diff d).stages.get s

/-- Replace stage s of the diffuser a reference names. -/
def Channel.setApf (c : Channel) (d : DiffRef) (s : Fin 12) (u : Apf) : Channel :=
  c.setDiff d { c.diff d with stages := (c.diff d).stages.set s u }

/-- Replace line l. -/
def Channel.setLine (c : Channel) (l : Fin 12) (u : Line) : Channel := { c with lines := c.lines.set l u }

/-- Replace every line by f of it. -/
def Channel.mapLines (c : Channel) (f : Line → Line) : Channel := { c with lines := c.lines.map f }

end Sys2Proof.Machine
end

