-- ==== Sys2Proof/Machine/Delay.lean ====
section
/-!
DEFINITION. The modulated tap with its fractional-delay interpolator, the all-pass stage, the plain modulated delay
and the diffuser (42_allpass_delay.md R300-R316). `n` is the buffer length: N_AP in an APF, N_MD in an MDLY.
-/

namespace Sys2Proof.Machine

open F32 (add sub mul)

/-- Run a unit over a block, sample by sample in index order (00_scope.md R13). -/
def runBlock {σ : Type} (step : σ → F32 → σ × F32) : σ → List F32 → σ × List F32
  | s, [] => (s, [])
  | s, x :: xs =>
    let (s1, y) := step s x
    let (s2, ys) := runBlock step s1 xs
    (s2, y :: ys)

/-! ### Modulated tap -/

/-- The total delay td of refresh, clamped to [1, N-2] (42_allpass_delay.md R301). -/
def Tap.totalDelay (n : Nat) (t : Tap) : F32 :=
  let amtEff := F32.min t.amt (F32.ofInt ((t.sd : Int) - 1))
  let td := add (F32.ofNat t.sd) (mul amtEff t.mod)
  F32.min (F32.max td F32.one) (F32.ofNat (n - 2))

/-- `refresh(t)`: split the total delay into two taps and their weights (42_allpass_delay.md R301). -/
def Tap.refresh (n : Nat) (t : Tap) : Tap :=
  let td := t.totalDelay n
  let da := td.floor.toNat
  let frac := sub td (F32.ofNat da)
  { t with da := da, db := da + 1, ga := sub F32.one frac, gb := frac }

/-- The phase after an update, wrapped to [0, 1) (42_allpass_delay.md R302). -/
def Tap.nextPhase (t : Tap) : F32 :=
  let p := add t.phase (mul t.rate F32.eight)
  if F32.ge p F32.one then sub p (F32.ofInt p.floor) else p

/-- `update(t)`: advance the LFO, then refresh (42_allpass_delay.md R302). -/
def Tap.update (T : Transc) (n : Nat) (t : Tap) : Tap :=
  let p := t.nextPhase
  Tap.refresh n { t with phase := p, mod := T.sin32 (mul F32.twoPi p) }

/-- `tapread(t)` (42_allpass_delay.md R303). -/
def Tap.read (interp : Bool) (n : Nat) (t : Tap) : F32 :=
  let a := Buf.get t.buf (wrapBack n t.widx t.da)
  if interp then
    let b := Buf.get t.buf (wrapBack n t.widx t.db)
    add (mul a t.ga) (mul b t.gb)
  else a

/-- The tap after the LFO part of `modread(t)`: updated if the counter reached 8, and counted
(42_allpass_delay.md R304). -/
def Tap.advance (T : Transc) (n : Nat) (t : Tap) : Tap :=
  let t1 := if Config.lfoInterval ≤ t.counter then { Tap.update T n t with counter := 0 } else t
  { t1 with counter := t1.counter + 1 }

/-- `modread(t)`: the read does not depend on the counter, so it is taken of the advanced tap
(42_allpass_delay.md R304). -/
def Tap.modread (T : Transc) (interp : Bool) (n : Nat) (t : Tap) : Tap × F32 :=
  let t1 := t.advance T n
  (t1, t1.read interp n)

/-- Write a sample at the write index and advance it (42_allpass_delay.md R305, R306). -/
def Tap.push (n : Nat) (t : Tap) (x : F32) : Tap :=
  { t with buf := Buf.set t.buf t.widx x, widx := (t.widx + 1) % n }

/-- Clear of an MDLY: every cell +0, nothing else (42_allpass_delay.md R307). -/
def Tap.clear (t : Tap) : Tap := { t with buf := [] }

/-- MDLY step: read, then write (42_allpass_delay.md R306). -/
def Tap.step (T : Transc) (interp : Bool) (t : Tap) (x : F32) : Tap × F32 :=
  let (t1, r) := t.modread T interp Config.nMd
  (t1.push Config.nMd x, r)

/-! ### All-pass stage -/

/-- The delayed value of an APF step and the tap after it: modulated, or the integer tap at SD with the LFO left
alone (42_allpass_delay.md R305). -/
def Apf.delayed (T : Transc) (interp : Bool) (u : Apf) : Tap × F32 :=
  if u.modEn then u.tap.modread T interp Config.nAp
  else (u.tap, Buf.get u.tap.buf (wrapBack Config.nAp u.tap.widx u.tap.sd))

/-- APF step (42_allpass_delay.md R305). -/
def Apf.step (T : Transc) (interp : Bool) (u : Apf) (x : F32) : Apf × F32 :=
  let (t1, r) := u.delayed T interp
  let vin := add x (mul r u.g)
  ({ u with tap := t1.push Config.nAp vin }, sub r (mul vin u.g))

/-- APF clear (42_allpass_delay.md R307). -/
def Apf.clear (u : Apf) : Apf := { u with tap := u.tap.clear }

/-! ### Diffuser -/

/-- Stage i of a diffuser derivation from the nominal values, the diffuser's feedback g and the seeded vector
(42_allpass_delay.md R309, 46_diagnostic.md R504). -/
def Diff.deriveStage (T : Transc) (nomDelay nomAmt nomRate g : F32) (vec : List F32) (i : Fin 12) (u : Apf) : Apf :=
  let scale := mul (T.exp10 (vecAt vec i)) F32.c01
  let jitter := fun (k : Nat) => add F32.c085 (mul F32.c03 (vecAt vec k))
  let t := { u.tap with sd := clampi (mul nomDelay scale).trunc 1 (Config.nAp - 2),
                        amt := mul nomAmt (jitter (12 + i)),
                        rate := mul nomRate (jitter (24 + i)) }
  { u with tap := t.refresh Config.nAp, g := g }

/-- Diffuser derivation from the stored VEC (42_allpass_delay.md R309); it rewrites SD, AMT, RATE and G of every stage
(46_diagnostic.md R504). DEDUCED: g is the diffuser's feedback register (R315, R316), and MOD_EN is kept (assumption log
23). -/
def Diff.derive (T : Transc) (fs delayMs amtMs rateHz g : F32) (d : Diff) : Diff :=
  { d with nomDelay := ms2s fs delayMs, nomAmt := ms2s fs amtMs, nomRate := hz2c fs rateHz, g := g,
           stages := d.stages.mapIdx
             (Diff.deriveStage T (ms2s fs delayMs) (ms2s fs amtMs) (hz2c fs rateHz) g d.vec) }

/-- Diffuser reseed: SEED, CS and VEC (42_allpass_delay.md R310); a derivation always follows it. -/
def Diff.reseed (seed : Word) (cs : F32) (d : Diff) : Diff :=
  { d with seed := seed, cs := cs, vec := generateX seed 36 cs }

/-- One G for all stages (42_allpass_delay.md R311). -/
def Diff.setG (g : F32) (d : Diff) : Diff :=
  { d with g := g, stages := d.stages.map (fun u => { u with g := g }) }

/-- One MOD_EN for all stages (42_allpass_delay.md R311). -/
def Diff.setModEn (m : Bool) (d : Diff) : Diff :=
  { d with modEn := m, stages := d.stages.map (fun u => { u with modEn := m }) }

/-- The active stage count (42_allpass_delay.md R312). -/
def Diff.setCount (n : Nat) (d : Diff) : Diff := { d with count := n }

/-- Run the listed stages in series on one sample, each one's output feeding the next (42_allpass_delay.md R312). -/
def Diff.chain (T : Transc) (interp : Bool) : List (Fin 12) → Twelve Apf → F32 → Twelve Apf × F32
  | [], st, x => (st, x)
  | i :: is, st, x =>
    let (u, y) := (st.get i).step T interp x
    Diff.chain T interp is (st.set i u) y

/-- The first n of the twelve indexes, in ascending order. -/
def firstTwelve (n : Nat) : List (Fin 12) := [0, 1, 2, 3, 4, 5, 6, 7, 8, 9, 10, 11].take n

/-- Diffuser process of one sample: the first COUNT stages (42_allpass_delay.md R312). -/
def Diff.step (T : Transc) (interp : Bool) (d : Diff) (x : F32) : Diff × F32 :=
  let (st, y) := Diff.chain T interp (firstTwelve d.count) d.stages x
  ({ d with stages := st }, y)

/-- Diffuser clear: all 12 stages (42_allpass_delay.md R313). -/
def Diff.clear (d : Diff) : Diff := { d with stages := d.stages.map Apf.clear }

end Sys2Proof.Machine
end

