-- ==== Sys2Proof/Machine/Filters.lean ====
section
/-!
DEFINITION. The filter bank (41_filters.md R250-R267): one-pole and biquad derivation, sample steps, clearing and the
biquad response query. `fs` is glob.FS; T is TRANSC.
-/

namespace Sys2Proof.Machine

open F32 (add sub mul div neg one two)

/-! ### One-pole -/

/-- One-pole derivation from a cutoff in Hz (41_filters.md R250). -/
def OnePole.derive (T : Transc) (fs fc : F32) (u : OnePole) : OnePole :=
  let fcc := F32.clamp fc F32.zero (mul F32.c0499 fs)
  let x := div (mul F32.twoPi fcc) fs
  let nn := sub two (T.cos32 x)
  let alpha := sub nn (F32.sqrt (sub (mul nn nn) one))
  { u with cutoff := fcc, a1 := alpha, b0 := sub one alpha }

/-- The new Y of a one-pole step, with the zero-snap guard (41_filters.md R251). -/
def OnePole.nextY (u : OnePole) (x : F32) : F32 :=
  if x.isZero && F32.lt (F32.abs u.y) Config.epsSnap then F32.zero
  else add (mul u.b0 x) (mul u.a1 u.y)

/-- One-pole step: the low-pass state, or the input minus it in high-pass mode (41_filters.md R251, R252). -/
def OnePole.step (u : OnePole) (x : F32) : OnePole × F32 :=
  let y := u.nextY x
  ({ u with y := y }, if u.highPass then sub x y else y)

/-- One-pole clear (41_filters.md R253). -/
def OnePole.clear (u : OnePole) : OnePole := { u with y := F32.zero }

/-! ### Biquad -/

/-- The five coefficients of a biquad (10_state.md R62). -/
structure BqCoef where
  b0 : F32
  b1 : F32
  b2 : F32
  a1 : F32
  a2 : F32
  deriving DecidableEq, Repr

/-- LP6 and HP6 (41_filters.md R257). -/
def designFirst (T : Transc) (high : Bool) (fs f : F32) : BqCoef :=
  let p := T.exp32 (neg (div (mul F32.twoPi f) fs))
  let a1 := neg p
  if high then
    let b0 := div (sub one a1) two
    { b0 := b0, b1 := neg b0, b2 := F32.zero, a1 := a1, a2 := F32.zero }
  else { b0 := add one a1, b1 := F32.zero, b2 := F32.zero, a1 := a1, a2 := F32.zero }

/-- The shared terms of LP, HP, BP and NOTCH: norm, a1, a2 (41_filters.md R258). -/
def secondNorm (k kk q : F32) : F32 := div one (add (add one (div k q)) kk)

/-- `(2·(KK - 1))·norm`, used by every second-order type (41_filters.md R258-R261). -/
def kkTerm (kk norm : F32) : F32 := mul (mul two (sub kk one)) norm

/-- LP (41_filters.md R258). -/
def designLp (k kk q : F32) : BqCoef :=
  let norm := secondNorm k kk q
  let b0 := mul kk norm
  { b0 := b0, b1 := mul two b0, b2 := b0, a1 := kkTerm kk norm,
    a2 := mul (add (sub one (div k q)) kk) norm }

/-- HP (41_filters.md R258). -/
def designHp (k kk q : F32) : BqCoef :=
  let norm := secondNorm k kk q
  let b0 := mul one norm
  { b0 := b0, b1 := mul (neg two) b0, b2 := b0, a1 := kkTerm kk norm,
    a2 := mul (add (sub one (div k q)) kk) norm }

/-- BP (41_filters.md R258). -/
def designBp (k kk q : F32) : BqCoef :=
  let norm := secondNorm k kk q
  let b0 := mul (div k q) norm
  { b0 := b0, b1 := F32.zero, b2 := neg b0, a1 := kkTerm kk norm,
    a2 := mul (add (sub one (div k q)) kk) norm }

/-- NOTCH (41_filters.md R258). -/
def designNotch (k kk q : F32) : BqCoef :=
  let norm := secondNorm k kk q
  let b0 := mul (add one kk) norm
  { b0 := b0, b1 := kkTerm kk norm, b2 := b0, a1 := kkTerm kk norm,
    a2 := mul (add (sub one (div k q)) kk) norm }

/-- PEAK: two formula sets, chosen by the sign of the clamped gain (41_filters.md R259). -/
def designPeak (g v k kk q : F32) : BqCoef :=
  let vq := mul (div v q) k
  let oq := mul (div one q) k
  if F32.ge g F32.zero then
    let norm := div one (add (add one oq) kk)
    let b1 := kkTerm kk norm
    { b0 := mul (add (add one vq) kk) norm, b1 := b1, b2 := mul (add (sub one vq) kk) norm,
      a1 := b1, a2 := mul (add (sub one oq) kk) norm }
  else
    let norm := div one (add (add one vq) kk)
    let b1 := kkTerm kk norm
    { b0 := mul (add (add one oq) kk) norm, b1 := b1, b2 := mul (add (sub one oq) kk) norm,
      a1 := b1, a2 := mul (add (sub one vq) kk) norm }

/-- LSH, the low shelf; Q is not used (41_filters.md R260). -/
def designLsh (g v k kk : F32) : BqCoef :=
  let s2v := mul (F32.sqrt (mul two v)) k
  let s2k := mul (F32.sqrt two) k
  let vkk := mul (mul v k) k
  if F32.ge g F32.zero then
    let norm := div one (add (add one s2k) kk)
    { b0 := mul (add (add one s2v) vkk) norm, b1 := mul (mul two (sub vkk one)) norm,
      b2 := mul (add (sub one s2v) vkk) norm, a1 := kkTerm kk norm,
      a2 := mul (add (sub one s2k) kk) norm }
  else
    let norm := div one (add (add one s2v) vkk)
    { b0 := mul (add (add one s2k) kk) norm, b1 := kkTerm kk norm,
      b2 := mul (add (sub one s2k) kk) norm, a1 := mul (mul two (sub vkk one)) norm,
      a2 := mul (add (sub one s2v) vkk) norm }

/-- HSH, the high shelf; Q is not used (41_filters.md R261). -/
def designHsh (g v k kk : F32) : BqCoef :=
  let s2v := mul (F32.sqrt (mul two v)) k
  let s2k := mul (F32.sqrt two) k
  if F32.ge g F32.zero then
    let norm := div one (add (add one s2k) kk)
    { b0 := mul (add (add v s2v) kk) norm, b1 := mul (mul two (sub kk v)) norm,
      b2 := mul (add (sub v s2v) kk) norm, a1 := kkTerm kk norm,
      a2 := mul (add (sub one s2k) kk) norm }
  else
    let norm := div one (add (add v s2v) kk)
    { b0 := mul (add (add one s2k) kk) norm, b1 := kkTerm kk norm,
      b2 := mul (add (sub one s2k) kk) norm, a1 := mul (mul two (sub kk v)) norm,
      a2 := mul (add (sub v s2v) kk) norm }

/-- The coefficients of a type from the clamped design inputs and the shared terms of 41_filters.md R256. -/
def design (T : Transc) (type : BqType) (fs f g q : F32) : BqCoef :=
  let v := T.exp10 (div (F32.abs g) F32.twenty)
  let k := T.tan32 (div (mul F32.pi f) fs)
  let kk := mul k k
  match type with
  | .lp6 => designFirst T false fs f
  | .hp6 => designFirst T true fs f
  | .lp => designLp k kk q
  | .hp => designHp k kk q
  | .bp => designBp k kk q
  | .notch => designNotch k kk q
  | .peak => designPeak g v k kk q
  | .lsh => designLsh g v k kk
  | .hsh => designHsh g v k kk

/-- The design gain clamped to ±60 dB (41_filters.md R256). -/
def clampGain (gainDb : F32) : F32 := F32.clamp gainDb (neg F32.sixty) F32.sixty
/-- The design Q floored at 0.001 (41_filters.md R256). -/
def clampQ (q : F32) : F32 := F32.max q F32.c0001
/-- The design frequency clamped to [0, 0.499·fs] (41_filters.md R256). -/
def clampFreq (fs freq : F32) : F32 := F32.clamp freq F32.zero (mul F32.c0499 fs)

/-- Biquad derivation; the history is kept (41_filters.md R256). -/
def Biquad.derive (T : Transc) (fs : F32) (type : BqType) (freq gainDb q : F32) (u : Biquad) : Biquad :=
  let c := design T type fs (clampFreq fs freq) (clampGain gainDb) (clampQ q)
  { u with type := type, freq := clampFreq fs freq, gainDb := clampGain gainDb, q := clampQ q,
           b0 := c.b0, b1 := c.b1, b2 := c.b2, a1 := c.a1, a2 := c.a2 }

/-- The output of a biquad step, in the order of 41_filters.md R262. -/
def Biquad.out (u : Biquad) (x : F32) : F32 :=
  sub (sub (add (add (mul u.b0 x) (mul u.b1 u.x1)) (mul u.b2 u.x2)) (mul u.a1 u.y1)) (mul u.a2 u.y2)

/-- Biquad step, direct form I (41_filters.md R262). -/
def Biquad.step (u : Biquad) (x : F32) : Biquad × F32 :=
  let y := u.out x
  ({ u with x2 := u.x1, x1 := x, y2 := u.y1, y1 := y }, y)

/-- Biquad clear (41_filters.md R263). -/
def Biquad.clear (u : Biquad) : Biquad :=
  { u with x1 := F32.zero, x2 := F32.zero, y1 := F32.zero, y2 := F32.zero }

/-- The power gain before its guard and root: num / den in phi = sin²(π·freq/fs) (41_filters.md R264). -/
def Biquad.power (T : Transc) (fs : F32) (u : Biquad) (freq : F32) : F32 :=
  let s := T.sin32 (div (mul F32.pi freq) fs)
  let phi := mul s s
  let sb := add (add u.b0 u.b1) u.b2
  let sa := add (add one u.a1) u.a2
  let num :=
    add (sub (mul sb sb)
          (mul (mul F32.four (add (add (mul u.b0 u.b1) (mul (mul F32.four u.b0) u.b2)) (mul u.b1 u.b2))) phi))
        (mul (mul (mul (mul F32.sixteen u.b0) u.b2) phi) phi)
  let den :=
    add (sub (mul sa sa)
          (mul (mul F32.four (add (add u.a1 (mul F32.four u.a2)) (mul u.a1 u.a2))) phi))
        (mul (mul (mul F32.sixteen u.a2) phi) phi)
  div num den

/-- `Resp(u, freq)`, the voltage gain of the current coefficients (41_filters.md R264). -/
def Biquad.resp (T : Transc) (fs : F32) (u : Biquad) (freq : F32) : F32 :=
  let p := u.power T fs freq
  F32.sqrt (if F32.lt p F32.zero then F32.zero else p)

/-- The response a stored BQX_TYPE word names (41_filters.md R255). -/
def BqType.ofWord (w : Word) : Option BqType :=
  match w.toNat with
  | 0 => some .lp6
  | 1 => some .hp6
  | 2 => some .lp
  | 3 => some .hp
  | 4 => some .bp
  | 5 => some .notch
  | 6 => some .peak
  | 7 => some .lsh
  | 8 => some .hsh
  | _ => none

/-- The TYPE tag of a response (41_filters.md R255). -/
def BqType.toNat : BqType → Nat
  | .lp6 => 0
  | .hp6 => 1
  | .lp => 2
  | .hp => 3
  | .bp => 4
  | .notch => 5
  | .peak => 6
  | .lsh => 7
  | .hsh => 8

end Sys2Proof.Machine
end

