-- ==== Sys2Proof/Machine/Multitap.lean ====
section
/-!
DEFINITION. The multi-tap delay with indexed gain (43_multitap.md R360-R365).
-/

namespace Sys2Proof.Machine

open F32 (add sub mul div neg)

/-- GAIN[j] of a reseed: the coin's sign times dB2Gain(-20 + r·20) (43_multitap.md R361). -/
def Mt.seedGain (T : Transc) (v : List F32) (j : Nat) : F32 :=
  let sign := if F32.lt F32.half (vecAt v j) then F32.one else neg F32.one
  mul sign (T.exp10 (div (add (neg F32.twenty) (mul (vecAt v (256 + j)) F32.twenty)) F32.twenty))

/-- POS[j] of a reseed: j + r (43_multitap.md R361). -/
def Mt.seedPos (v : List F32) (j : Nat) : F32 := add (F32.ofNat j) (vecAt v (512 + j))

/-- MT reseed (43_multitap.md R361); a derivation always follows it. -/
def Mt.reseed (T : Transc) (seed : Word) (cs : F32) (m : Mt) : Mt :=
  let v := generateX seed 768 cs
  { m with seed := seed, cs := cs,
           gain := (List.range Config.maxTaps).map (Mt.seedGain T v),
           pos := (List.range Config.maxTaps).map (Mt.seedPos v) }

/-- The read offset IDX[j] (43_multitap.md R362). -/
def Mt.tapIdx (scaler : F32) (pos : List F32) (j : Nat) : Int :=
  min (mul (vecAt pos j) scaler).trunc ((Config.nMt : Int) - 1)

/-- The weight W[j] (43_multitap.md R362). -/
def Mt.tapWeight (T : Transc) (scaler len d norm : F32) (gain pos : List F32) (j : Nat) : F32 :=
  let off := mul (vecAt pos j) scaler
  let dec := add (mul (T.exp32 (neg (mul (div off len) F32.c33))) d) (sub F32.one d)
  mul (mul (vecAt gain j) dec) norm

/-- MT derive from the count, the length in ms and the decay (43_multitap.md R362). Entries at and beyond the count
keep what they held; they are not used (43_multitap.md R360). -/
def Mt.derive (T : Transc) (fs : F32) (c : Nat) (ms d : F32) (m : Mt) : Mt :=
  let len := F32.clamp (ms2s fs ms) F32.one (F32.ofNat (Config.nMt - 1))
  let scaler := div len (F32.ofNat c)
  let norm := mul (div F32.three (F32.sqrt (add F32.one (F32.ofNat c)))) (add F32.one (mul F32.two d))
  { m with count := c, decay := d, len := len,
           idx := (List.range c).map (Mt.tapIdx scaler m.pos) ++ m.idx.drop c,
           w := (List.range c).map (Mt.tapWeight T scaler len d norm m.gain m.pos) ++ m.w.drop c }

/-- The sum of the taps of a list of tap numbers, in that order, onto y (43_multitap.md R363). -/
def Mt.sumTaps (m : Mt) (b : Buf) : List Nat → F32 → F32
  | [], y => y
  | j :: js, y =>
    Mt.sumTaps m b js (add y (mul (Buf.get b (wrapBack Config.nMt m.widx (m.idx.getD j 0))) (vecAt m.w j)))

/-- MT step: write first, then sum the active taps in ascending order (43_multitap.md R363). -/
def Mt.step (m : Mt) (x : F32) : Mt × F32 :=
  let b := Buf.set m.buf m.widx x
  ({ m with buf := b, widx := (m.widx + 1) % Config.nMt }, Mt.sumTaps m b (List.range m.count) F32.zero)

/-- MT clear (43_multitap.md R364). -/
def Mt.clear (m : Mt) : Mt := { m with buf := [] }

end Sys2Proof.Machine
end

