-- ==== Sys2Proof/Machine/Fdn.lean ====
section
/-!
DEFINITION. The feedback delay network (44_fdn_channel.md R390-R397): the feedback FIFO, one line's block, UpdateLines,
the per-channel cross-seed, the channel block and the stereo cross-mix.
-/

namespace Sys2Proof.Machine

open F32 (add sub mul div neg)

/-! ### Feedback FIFO -/

/-- Pop one sample, +0 on underflow (44_fdn_channel.md R390). -/
def Fifo.popOne (f : Fifo) : Fifo × F32 :=
  if 0 < f.level then
    ({ f with rd := (f.rd + 1) % Config.fbCap, level := f.level - 1 }, Buf.get f.cells f.rd)
  else (f, F32.zero)

/-- `pop(n)` (44_fdn_channel.md R390). -/
def Fifo.pop : Nat → Fifo → Fifo × List F32
  | 0, f => (f, [])
  | n + 1, f =>
    let (f1, x) := f.popOne
    let (f2, xs) := Fifo.pop n f1
    (f2, x :: xs)

/-- Push one sample; a full FIFO drops it (44_fdn_channel.md R390). -/
def Fifo.pushOne (f : Fifo) (x : F32) : Fifo :=
  if f.level < Config.fbCap then
    { f with cells := Buf.set f.cells ((f.rd + f.level) % Config.fbCap) x, level := f.level + 1 }
  else f

/-- `push(v)` (44_fdn_channel.md R390). -/
def Fifo.push (f : Fifo) (v : List F32) : Fifo := v.foldl Fifo.pushOne f

/-- FIFO clear: the cells +0, RD and LEVEL kept (44_fdn_channel.md R390). -/
def Fifo.clear (f : Fifo) : Fifo := { f with cells := [] }

/-! ### One line -/

/-- Run a stage of the line over a block only when its enable is 1 (44_fdn_channel.md R391, R395). -/
def runIf {σ : Type} (en : Bool) (step : σ → F32 → σ × F32) (s : σ) (x : List F32) : σ × List F32 :=
  if en then runBlock step s x else (s, x)

/-- The feedback mix `e[i] + fb[i]·GAIN` (44_fdn_channel.md R391). -/
def feedbackMix (gain : F32) (e fb : List F32) : List F32 :=
  List.zipWith (fun a b => add a (mul b gain)) e fb

/-- LINE block on the early signal e (44_fdn_channel.md R391). -/
def Line.block (T : Transc) (interp : Bool) (r : ChanRegs) (l : Line) (e : List F32) : Line × List F32 :=
  let (fb1, fb) := l.fb.pop e.length
  let (mdly, t1) := runBlock (Tap.step T interp) l.mdly (feedbackMix l.gain e fb)
  let (dif, t2) := runIf r.lateDifEn (Diff.step T interp) l.dif t1
  let (lsh, t3) := runIf r.eqLshEn Biquad.step l.lsh t2
  let (hsh, t4) := runIf r.eqHshEn Biquad.step l.hsh t3
  let (damp, t5) := runIf r.eqLpEn OnePole.step l.damp t4
  ({ l with fb := fb1.push t5, mdly := mdly, dif := dif, lsh := lsh, hsh := hsh, damp := damp },
   if r.lateTapPost then t5 else t1)

/-- Line clear: its sub-units and the FIFO cells (45_control.md R462). -/
def Line.clear (l : Line) : Line :=
  { l with mdly := l.mdly.clear, dif := l.dif.clear, lsh := l.lsh.clear, hsh := l.hsh.clear,
           damp := l.damp.clear, fb := l.fb.clear }

/-! ### UpdateLines and the cross-seed -/

/-- The line gain of a delay and a decay in samples, capped below 1 (44_fdn_channel.md R392). -/
def lineGain (T : Transc) (sd : Nat) (decS : F32) : F32 :=
  let g := dB2Gain T (mul (div (F32.ofNat sd) decS) (neg F32.sixty))
  if F32.ge g F32.one then F32.belowOne else g

/-- The ModAmount of line i, and with na the nominal rate its ModRate: ±30% jitter by entry k of the vector
(44_fdn_channel.md R392). -/
def lineJitter (nominal : F32) (v : List F32) (k : Nat) : F32 :=
  mul nominal (add F32.c07 (mul F32.c06 (vecAt v k)))

/-- The SampleDelay of line i (44_fdn_channel.md R392). -/
def lineDelay (nl amt : F32) (v : List F32) (i : Nat) : Nat :=
  let d := mul (add F32.half (mul F32.one (vecAt v i))) nl
  clampi (F32.max d (add amt F32.two)).trunc 1 (Config.nMd - 2)

/-- UpdateLines on line i (44_fdn_channel.md R392). -/
def Line.update (T : Transc) (v : List F32) (nl na nr decS : F32) (i : Fin 12) (l : Line) : Line :=
  let amt := lineJitter na v (12 + i)
  let sd := lineDelay nl amt v i
  let t := { l.mdly with sd := sd, amt := amt, rate := lineJitter nr v (24 + i) }
  { l with mdly := t.refresh Config.nMd, gain := lineGain T sd decS }

/-- UpdateLines on a channel (44_fdn_channel.md R392). -/
def Channel.updateLines (T : Transc) (fs : F32) (c : Channel) : Channel :=
  let v := generateX c.regs.seedDelay 36 c.cs
  let nl := ms2s fs c.regs.lateLineSizeMs
  let na := ms2s fs c.regs.lateLineModAmtMs
  let nr := hz2c fs c.regs.lateLineModRateHz
  let decS := F32.max F32.one (s2s fs c.regs.lateLineDecayS)
  { c with lineVec := v, nomLine := nl, decaySamples := decS,
           lines := c.lines.mapIdx (Line.update T v nl na nr decS) }

/-- The seed of line l's diffuser, mod 2^32 (44_fdn_channel.md R393). -/
def lineDiffSeed (seed : Word) (l : Nat) : Word := seed + BitVec.ofNat 32 (l * 0x9E3779B9)

/-- The channel's cross-seed value from the raw register x (44_fdn_channel.md R394). -/
def crossSeed (ch : Chan) (x : F32) : F32 :=
  match ch with
  | .L => sub F32.one (mul F32.half x)
  | .R => mul F32.half x

/-! ### Channel block -/

/-- The small-signal squelch (44_fdn_channel.md R395). -/
def squelch (x : F32) : F32 := if F32.lt (mul x x) Config.squelch then F32.zero else x

/-- Run the listed lines on e in that order and add their outputs onto s (44_fdn_channel.md R395). -/
def sumLines (T : Transc) (interp : Bool) (r : ChanRegs) (e : List F32) :
    List (Fin 12) → Twelve Line → List F32 → Twelve Line × List F32
  | [], ls, s => (ls, s)
  | i :: is, ls, s =>
    let (l, y) := (ls.get i).block T interp r e
    sumLines T interp r e is (ls.set i l) (List.zipWith add s y)

/-- One output sample `(DRY·u + EARLY·e) + LATE·(s·norm)` (44_fdn_channel.md R395). -/
def mixOut (r : ChanRegs) (norm u e s : F32) : F32 :=
  add (add (mul r.dryOut u) (mul r.earlyOut e)) (mul r.lateOut (mul s norm))

/-- The output mix of a block (44_fdn_channel.md R395). -/
def mixBlock (r : ChanRegs) (norm : F32) : List F32 → List F32 → List F32 → List F32
  | u :: us, e :: es, s :: ss => mixOut r norm u e s :: mixBlock r norm us es ss
  | _, _, _ => []

/-- `1 / sqrt32(f32(count))` (44_fdn_channel.md R395, R396). -/
def lineNorm (count : Nat) : F32 := div F32.one (F32.sqrt (F32.ofNat count))

/-- Channel block on u (44_fdn_channel.md R395). -/
def Channel.block (T : Transc) (interp : Bool) (c : Channel) (u : List F32) : Channel × List F32 :=
  let (hpc, x1) := runIf c.regs.lowcutEn OnePole.step c.hpc u
  let (lpc, x2) := runIf c.regs.highcutEn OnePole.step c.lpc x1
  let (pre, e1) := runBlock (Tap.step T interp) c.pre (x2.map squelch)
  let (mt, e2) := runIf c.regs.tapEn Mt.step c.mt e1
  let (ed, e) := runIf c.regs.edifEn (Diff.step T interp) c.ed e2
  let (lines, s) := sumLines T interp c.regs e (firstTwelve c.regs.lateLineCount.toNat) c.lines
    (e.map (fun _ => F32.zero))
  ({ c with hpc := hpc, lpc := lpc, pre := pre, mt := mt, ed := ed, lines := lines },
   mixBlock c.regs (lineNorm c.regs.lateLineCount.toNat) u e s)

/-- The stereo cross-mix of one channel: its own input times k plus the other's times h (44_fdn_channel.md R397). -/
def crossMix (inputMix : F32) (own other : List F32) : List F32 :=
  let h := mul inputMix F32.half
  let k := sub F32.one h
  List.zipWith (fun a b => add (mul a k) (mul b h)) own other

end Sys2Proof.Machine
end

