-- ==== Sys2Proof/Machine/Derive.lean ====
section
/-!
DEFINITION. Derivation and clearing of a whole channel (45_control.md R455-R459, R462): the derivation of each unit
from the registers and fs, DERIVE_ALL, the write-effect table, the enable clears, clear by unit and CLEAR_ALL.
-/

namespace Sys2Proof.Machine

/-! ### Derivations, one per write-effect group (45_control.md R456) -/

/-- CHAN.CS (44_fdn_channel.md R394). -/
def Channel.deriveCs (ch : Chan) (c : Channel) : Channel := { c with cs := crossSeed ch c.regs.crossSeed }

/-- HPC (41_filters.md R254). -/
def Channel.deriveHpc (T : Transc) (fs : F32) (c : Channel) : Channel :=
  { c with hpc := c.hpc.derive T fs c.regs.lowcutHz }

/-- LPC (41_filters.md R254). -/
def Channel.deriveLpc (T : Transc) (fs : F32) (c : Channel) : Channel :=
  { c with lpc := c.lpc.derive T fs c.regs.highcutHz }

/-- PRE (42_allpass_delay.md R314). -/
def Channel.derivePre (fs : F32) (c : Channel) : Channel :=
  let t := { c.pre with sd := clampi (ms2s fs c.regs.tapPredelayMs).trunc 1 (Config.nMd - 2),
                        amt := F32.zero, rate := F32.zero }
  { c with pre := t.refresh Config.nMd }

/-- MT derive (43_multitap.md R362). -/
def Channel.deriveMt (T : Transc) (fs : F32) (c : Channel) : Channel :=
  { c with mt := c.mt.derive T fs c.regs.tapCount.toNat c.regs.tapLengthMs c.regs.tapDecay }

/-- MT reseed, then MT derive (43_multitap.md R361). -/
def Channel.reseedMt (T : Transc) (fs : F32) (c : Channel) : Channel :=
  Channel.deriveMt T fs { c with mt := c.mt.reseed T c.regs.seedTap c.cs }

/-- ED derive from its stored VEC (42_allpass_delay.md R309, R315; 46_diagnostic.md R504). -/
def Channel.deriveEd (T : Transc) (fs : F32) (c : Channel) : Channel :=
  { c with ed := c.ed.derive T fs c.regs.edifDelayMs c.regs.edifModAmtMs c.regs.edifModRateHz c.regs.edifFeedback }

/-- ED reseed, then ED derive (42_allpass_delay.md R310, R315). -/
def Channel.reseedEd (T : Transc) (fs : F32) (c : Channel) : Channel :=
  Channel.deriveEd T fs { c with ed := c.ed.reseed c.regs.seedDiffusion c.cs }

/-- ED.COUNT (42_allpass_delay.md R312, R315). -/
def Channel.deriveEdCount (c : Channel) : Channel := { c with ed := c.ed.setCount c.regs.edifCount.toNat }
/-- G of the 12 ED stages (42_allpass_delay.md R311). -/
def Channel.deriveEdG (c : Channel) : Channel := { c with ed := c.ed.setG c.regs.edifFeedback }
/-- MOD_EN of the 12 ED stages (42_allpass_delay.md R311). -/
def Channel.deriveEdMod (c : Channel) : Channel := { c with ed := c.ed.setModEn c.regs.edifModEn }

/-- BQX (41_filters.md R266). A TYPE word above 8 names no response; no WREG stores one, and the unit would keep its
coefficients (assumption log 16). -/
def Channel.deriveBqx (T : Transc) (fs : F32) (c : Channel) : Channel :=
  match BqType.ofWord c.regs.bqxType with
  | some type => { c with bqx := c.bqx.derive T fs type c.regs.bqxHz c.regs.bqxDb c.regs.bqxQ }
  | none => c

/-- A line's DIF derive from its stored VEC (42_allpass_delay.md R309, R316; 46_diagnostic.md R504). -/
def Line.deriveDif (T : Transc) (fs : F32) (r : ChanRegs) (l : Line) : Line :=
  { l with dif := l.dif.derive T fs r.lateDifDelayMs r.lateDifModAmtMs r.lateDifModRateHz r.lateDifFeedback }

/-- Line i's DIF reseed, then derive (44_fdn_channel.md R393). -/
def Line.reseedDif (T : Transc) (fs cs : F32) (r : ChanRegs) (i : Fin 12) (l : Line) : Line :=
  Line.deriveDif T fs r { l with dif := l.dif.reseed (lineDiffSeed r.seedPostdiffusion i) cs }

/-- Derive each of the 12 line DIFs from its stored VEC. -/
def Channel.deriveLdif (T : Transc) (fs : F32) (c : Channel) : Channel := c.mapLines (Line.deriveDif T fs c.regs)

/-- Reseed and derive each of the 12 line DIFs (44_fdn_channel.md R393). -/
def Channel.reseedLdif (T : Transc) (fs : F32) (c : Channel) : Channel :=
  { c with lines := c.lines.mapIdx (Line.reseedDif T fs c.cs c.regs) }

/-- COUNT of the 12 line DIFs (42_allpass_delay.md R316). -/
def Channel.deriveLdifCount (c : Channel) : Channel :=
  c.mapLines (fun l => { l with dif := l.dif.setCount c.regs.lateDifCount.toNat })
/-- G of all stages of the 12 line DIFs (42_allpass_delay.md R311). -/
def Channel.deriveLdifG (c : Channel) : Channel :=
  c.mapLines (fun l => { l with dif := l.dif.setG c.regs.lateDifFeedback })
/-- MOD_EN of all stages of the 12 line DIFs (42_allpass_delay.md R311). -/
def Channel.deriveLdifMod (c : Channel) : Channel :=
  c.mapLines (fun l => { l with dif := l.dif.setModEn c.regs.lateDifModEn })

/-- LSH of all 12 lines (41_filters.md R266). -/
def Channel.deriveLsh (T : Transc) (fs : F32) (c : Channel) : Channel :=
  c.mapLines (fun l => { l with lsh := l.lsh.derive T fs .lsh c.regs.eqLshHz c.regs.eqLshDb F32.q0 })
/-- HSH of all 12 lines (41_filters.md R266). -/
def Channel.deriveHsh (T : Transc) (fs : F32) (c : Channel) : Channel :=
  c.mapLines (fun l => { l with hsh := l.hsh.derive T fs .hsh c.regs.eqHshHz c.regs.eqHshDb F32.q0 })
/-- DAMP of all 12 lines (41_filters.md R254). -/
def Channel.deriveDamp (T : Transc) (fs : F32) (c : Channel) : Channel :=
  c.mapLines (fun l => { l with damp := l.damp.derive T fs c.regs.eqLpHz })

/-- A CROSS_SEED write: CS, then every reseed of the channel, then UpdateLines (44_fdn_channel.md R394). -/
def Channel.reseedAll (T : Transc) (fs : F32) (ch : Chan) (c : Channel) : Channel :=
  ((((c.deriveCs ch).reseedMt T fs).reseedEd T fs).reseedLdif T fs).updateLines T fs

/-- `DERIVE_ALL(ch)`, in the order of 45_control.md R455. -/
def Channel.deriveAll (T : Transc) (fs : F32) (ch : Chan) (c : Channel) : Channel :=
  let c := c.deriveCs ch
  let c := (c.deriveHpc T fs).deriveLpc T fs
  let c := c.derivePre fs
  let c := c.reseedMt T fs
  let c := (((c.reseedEd T fs).deriveEdCount).deriveEdG).deriveEdMod
  let c := c.deriveBqx T fs
  let c := (((c.reseedLdif T fs).deriveLdifCount).deriveLdifG).deriveLdifMod
  let c := ((c.deriveLsh T fs).deriveHsh T fs).deriveDamp T fs
  c.updateLines T fs

/-! ### Clearing -/

/-- What a change of an enable register clears (45_control.md R457). -/
def Channel.enableClear (t : EnableTarget) (c : Channel) : Channel :=
  match t with
  | .hpc => { c with hpc := c.hpc.clear }
  | .lpc => { c with lpc := c.lpc.clear }
  | .mt => { c with mt := c.mt.clear }
  | .ed => { c with ed := c.ed.clear }
  | .lineDif => c.mapLines (fun l => { l with dif := l.dif.clear })
  | .lineLsh => c.mapLines (fun l => { l with lsh := l.lsh.clear })
  | .lineHsh => c.mapLines (fun l => { l with hsh := l.hsh.clear })
  | .lineDamp => c.mapLines (fun l => { l with damp := l.damp.clear })

/-- `CLEAR_ALL(ch)` (45_control.md R459). -/
def Channel.clearAll (c : Channel) : Channel :=
  { c with hpc := c.hpc.clear, lpc := c.lpc.clear, pre := c.pre.clear, mt := c.mt.clear, ed := c.ed.clear,
           bqx := c.bqx.clear, lines := c.lines.map Line.clear }

/-- `clear(u)` by unit kind (45_control.md R462). -/
def Channel.clearUnit (u : UnitRef) (c : Channel) : Channel :=
  match u with
  | .onePole r => c.setOnePole r (c.onePole r).clear
  | .biquad r => c.setBiquad r (c.biquad r).clear
  | .apf d s => c.setApf d s (c.apf d s).clear
  | .mdly r => c.setMdly r (c.mdly r).clear
  | .diff r => c.setDiff r (c.diff r).clear
  | .mt => { c with mt := c.mt.clear }
  | .line l => c.setLine l (c.lines.get l).clear
  | .chan => c.clearAll

/-! ### Write effects -/

/-- `write_effect(r, c, old, v)` on a channel whose register already holds v (45_control.md R456, R457). -/
def Channel.writeEffect (T : Transc) (fs : F32) (ch : Chan) (e : Effect) (changed : Bool) (c : Channel) : Channel :=
  match e with
  | .none => c
  | .enable t => if changed then c.enableClear t else c
  | .hpc => c.deriveHpc T fs
  | .lpc => c.deriveLpc T fs
  | .bqx => c.deriveBqx T fs
  | .pre => c.derivePre fs
  | .mt => c.deriveMt T fs
  | .mtSeed => c.reseedMt T fs
  | .ed => c.deriveEd T fs
  | .edCount => c.deriveEdCount
  | .edG => c.deriveEdG
  | .edMod => c.deriveEdMod
  | .edSeed => c.reseedEd T fs
  | .ldif => c.deriveLdif T fs
  | .ldifCount => c.deriveLdifCount
  | .ldifG => c.deriveLdifG
  | .ldifMod => c.deriveLdifMod
  | .ldifSeed => c.reseedLdif T fs
  | .lsh => c.deriveLsh T fs
  | .hsh => c.deriveHsh T fs
  | .damp => c.deriveDamp T fs
  | .lines => c.updateLines T fs
  | .xseed => c.reseedAll T fs ch

/-- Store a word in a per-channel register and run its write effect (45_control.md R452). -/
def Channel.writeReg (T : Transc) (fs : F32) (ch : Chan) (r : CReg) (v : Word) (c : Channel) : Channel :=
  Channel.writeEffect T fs ch r.effect (c.regs.get r != v) { c with regs := c.regs.set r v }

/-- A channel right after reset (70_reset_and_hazards.md R600): registers at reset, samples at +0, everything derived
at fs = 48000, everything cleared. -/
def Channel.reset (T : Transc) (ch : Chan) : Channel :=
  (Channel.blank.deriveAll T GlobRegs.reset.fs ch).clearAll

end Sys2Proof.Machine
end

