-- ==== Sys2Proof/Machine/State.lean ====
section
/-!
DEFINITION. The state of CSC-1 as plain data (10_state.md R40), its reset value (70_reset_and_hazards.md R600, R602),
and the closed lists of faults and refusals.
-/

namespace Sys2Proof.Machine

/-- Memory: (byte address, byte) pairs of the host window, addresses strictly rising. An unlisted address has no
value yet (10_state.md R71; assumption log 6). -/
abbrev Mem := List Host.Cell

/-- Reasons the machine stops with a fault (70_reset_and_hazards.md R620). -/
inductive Fault where
  /-- HAZARD: raised by a host access to a word that a pending command owns (20_memory.md R133). Safe: the hardware
  would go on with a racing value, and no claim can be proved past it. -/
  | hazard
  /-- UNINIT: raised by PROC and UPROC reading an IN word no host write has set since the last reset
  (10_state.md R71). Safe: the hardware would read whatever the memory holds. -/
  | uninit
  deriving DecidableEq, Repr

/-- Reasons an instruction has no meaning. -/
inductive Refusal where
  /-- Raised by exec's arm of an instruction whose meaning is not written. Safe: nothing is claimed of it. -/
  | notModelled (mnemonic : String)
  deriving DecidableEq, Repr

/-- The outcome of a step of CSC-1. -/
abbrev Result (σ : Type) := Host.Outcome σ Fault Refusal

/-- Whether a word of the command stream is lost (70_reset_and_hazards.md R621). -/
inductive CmdLoss where
  /-- no CMD write was dropped since reset, or the host has recovered from the last one -/
  | none
  /-- a CMD write was dropped, and the host has not read IP.CMDOVF = 1 since -/
  | unseen
  /-- a CMD write was dropped, and the host has read IP.CMDOVF = 1 since; it has still to recover -/
  | seen
  deriving DecidableEq, Repr

/-- The state of CSC-1 (10_state.md R40). ID, VERSION and STATUS have no storage (10_state.md R43, R44). -/
structure State where
  /-- IE bits 5:0 (10_state.md R46) -/
  ie : BitVec 6
  /-- IP bits 5:0 (10_state.md R46) -/
  ip : BitVec 6
  /-- HALT (10_state.md R47) -/
  halt : Bool
  /-- ERRCAUSE; none is code 0 (10_state.md R47, 60_exceptions.md R541) -/
  errCause : Option Cause
  /-- ERRCMD (10_state.md R47) -/
  errCmd : Word
  /-- ERRCP (10_state.md R47) -/
  errCp : Word
  /-- CP, the command pointer (10_state.md R48) -/
  cp : Word
  /-- the command FIFO, oldest word first (10_state.md R49) -/
  cmdFifo : List Word
  /-- the response FIFO, oldest word first (10_state.md R49) -/
  rspFifo : List Word
  /-- the global control registers (10_state.md R51, R53) -/
  glob : GlobRegs
  /-- channel L: its registers, units and derived state (10_state.md R53, R60-R68) -/
  chL : Channel
  /-- channel R -/
  chR : Channel
  /-- X, the RNG accumulator (10_state.md R70) -/
  x : Word
  /-- IN_L, IN_R, OUT_L, OUT_R and VEC by byte address (10_state.md R71, 20_memory.md R121, R122) -/
  mem : Mem
  /-- the byte addresses, strictly rising, of the IN words a host write has set and of the OUT and VEC words the core
  has written since the last reset (10_state.md R71, 70_reset_and_hazards.md R620) -/
  written : List Nat
  /-- MODEL'S OWN: the turns of the two agents still to come (20_memory.md R129); when it is empty every turn is the
  core's. Assumption log 4. -/
  script : List Turn
  /-- MODEL'S OWN: what the host's reads have returned, oldest first. Assumption log 4. -/
  hostReads : List Word
  /-- MODEL'S OWN: how many unspecified words have been drawn (10_state.md R71). Assumption log 5. -/
  draws : Nat
  /-- MODEL'S OWN: whether a CMD word is lost and what the host has done about it (70_reset_and_hazards.md R621).
  Assumption log 12. -/
  cmdLoss : CmdLoss
  deriving DecidableEq, Repr

/-- The machine right after reset with the given transcendental functions (70_reset_and_hazards.md R600). -/
def State.resetWith (T : Transc) : State where
  ie := 0
  ip := 0
  halt := false
  errCause := none
  errCmd := 0
  errCp := 0
  cp := 0
  cmdFifo := []
  rspFifo := []
  glob := GlobRegs.reset
  chL := Channel.reset T .L
  chR := Channel.reset T .R
  x := 0
  mem := []
  written := []
  script := []
  hostReads := []
  draws := 0
  cmdLoss := .none

/-- The machine right after reset (70_reset_and_hazards.md R600). -/
def State.reset : State := State.resetWith Config.transc

end Sys2Proof.Machine
end

