-- ==== Sys2Proof/Machine/Ops.lean ====
section
/-!
DEFINITION. The named operations over memory, registers, FIFOs and the error record that every meaning is made of:
bytes and words of the host window, the written set, the IP bits, the response push, completing a command, the response
stall, and TAKING THE ERROR PATH with its return, the host's ERRCLR (60_exceptions.md R545, R546).
-/

namespace Sys2Proof.Machine

/-! ### Memory -/

/-- The canonical form of a list keyed by natural numbers: the keys strictly rising. -/
def risingFrom : Option Nat → List Nat → Bool
  | _, [] => true
  | none, k :: ks => risingFrom (some k) ks
  | some p, k :: ks => decide (p < k) && risingFrom (some k) ks

/-- Memory in its canonical form: addresses strictly rising (each listed once). An unlisted address has no value, so
no listed byte equals it. -/
def Mem.wf (m : Mem) : Bool := risingFrom none (m.map Prod.fst)

/-- What an address reads as: the byte a step stored there, or no value. -/
def Mem.readByte (m : Mem) (a : Nat) : Option Byte :=
  match m with
  | [] => none
  | (k, b) :: rest => if k = a then some b else Mem.readByte rest a

/-- Store one byte, keeping the canonical form. -/
def Mem.writeByte (m : Mem) (a : Nat) (b : Byte) : Mem :=
  match m with
  | [] => [(a, b)]
  | (k, c) :: rest =>
    if a < k then (a, b) :: (k, c) :: rest
    else if a = k then (a, b) :: rest
    else (k, c) :: Mem.writeByte rest a b

/-- The little-endian word at a byte address, if its four bytes have a value (20_memory.md R122). -/
def Mem.readWord (m : Mem) (a : Nat) : Option Word :=
  match m.readByte a, m.readByte (a + 1), m.readByte (a + 2), m.readByte (a + 3) with
  | some b0, some b1, some b2, some b3 => some (Word.ofBytes b0 b1 b2 b3)
  | _, _, _, _ => none

/-- Store a word, little-endian (20_memory.md R122, R126). -/
def Mem.writeWord (m : Mem) (a : Nat) (w : Word) : Mem :=
  (((m.writeByte a (w.extractLsb' 0 8)).writeByte (a + 1) (w.extractLsb' 8 8)).writeByte (a + 2)
    (w.extractLsb' 16 8)).writeByte (a + 3) (w.extractLsb' 24 8)

/-- Put an address in a strictly rising list, once. -/
def insertAddr (a : Nat) : List Nat → List Nat
  | [] => [a]
  | k :: ks => if a < k then a :: k :: ks else if a = k then k :: ks else k :: insertAddr a ks

/-- The base of a region of the host window (20_memory.md R121). -/
def Region.base : Region → Nat
  | .inL => 0x10000
  | .inR => 0x14000
  | .outL => 0x18000
  | .outR => 0x1C000
  | .vec => 0x20000

/-- The mapped words of a region (20_memory.md R121). -/
def Region.words : Region → Nat
  | .inL => Config.bs
  | .inR => Config.bs
  | .outL => Config.bs
  | .outR => Config.bs
  | .vec => Config.vecLen

/-- The regions the host writes for the core to read: IN_L and IN_R (10_state.md R71). -/
def Region.isInput : Region → Bool
  | .inL => true
  | .inR => true
  | .outL => false
  | .outR => false
  | .vec => false

/-- The byte address of word k of a region (00_scope.md R13). -/
def Region.addr (r : Region) (k : Nat) : Nat := r.base + 4 * k

/-- IN of a channel (20_memory.md R121). -/
def Chan.input : Chan → Region
  | .L => .inL
  | .R => .inR

/-- OUT of a channel (20_memory.md R121). -/
def Chan.output : Chan → Region
  | .L => .outL
  | .R => .outR

/-- Store a sample or vector word; whether it counts as written stays (10_state.md R71). -/
def State.pokeWord (s : State) (a : Nat) (w : Word) : State := { s with mem := s.mem.writeWord a w }

/-- Store a sample or vector word and note it as written since the last reset (10_state.md R71). -/
def State.storeWord (s : State) (a : Nat) (w : Word) : State :=
  { s with mem := s.mem.writeWord a w, written := insertAddr a s.written }

/-- Store a list of words at consecutive word addresses from word k of a region (20_memory.md R126). -/
def State.storeFrom (r : Region) : Nat → List F32 → State → State
  | _, [], s => s
  | k, v :: vs, s => State.storeFrom r (k + 1) vs (s.storeWord (r.addr k) v.bits)

/-- Words k..k+n-1 of a region as f32, if each was written since the last reset (10_state.md R71,
70_reset_and_hazards.md R620); none is UNINIT. -/
def State.loadFrom (s : State) (r : Region) : Nat → Nat → Option (List F32)
  | _, 0 => some []
  | k, n + 1 =>
    if s.written.contains (r.addr k) then
      match s.mem.readWord (r.addr k), State.loadFrom s r (k + 1) n with
      | some w, some ws => some (⟨w⟩ :: ws)
      | _, _ => none
    else none

/-! ### Channels and registers -/

/-- The channel a name selects. -/
def State.chan (s : State) : Chan → Channel
  | .L => s.chL
  | .R => s.chR

/-- Replace a channel. -/
def State.setChan (s : State) (ch : Chan) (c : Channel) : State :=
  match ch with
  | .L => { s with chL := c }
  | .R => { s with chR := c }

/-- Apply f to each channel the mask selects, L first: bit 24 of the command word selects L, bit 25 selects R
(30_encoding.md R160, R162). -/
def State.onChannels (mask : BitVec 2) (f : Chan → Channel → Channel) (s : State) : State :=
  let s1 := if mask.getLsbD 0 then s.setChan .L (f .L s.chL) else s
  if mask.getLsbD 1 then s1.setChan .R (f .R s1.chR) else s1

/-- The stored word of a register, of glob or of a channel (10_state.md R50, R51). -/
def State.readReg (s : State) (ch : Chan) : Reg → Word
  | .glob r => s.glob.get r
  | .chan r => (s.chan ch).regs.get r

/-! ### Interrupt bits, responses, completion -/

/-- The number of an IP or IE bit (10_state.md R46). -/
def IrqBit.index : IrqBit → Nat
  | .sync => 0
  | .err => 1
  | .idle => 2
  | .cmdOvf => 3
  | .rspUnf => 4
  | .busErr => 5

/-- The IP word with only this bit set (10_state.md R46). -/
def IrqBit.mask (b : IrqBit) : BitVec 6 := 1#6 <<< b.index

/-- Set an IP bit (10_state.md R46). -/
def State.raiseIrq (s : State) (b : IrqBit) : State := { s with ip := s.ip ||| b.mask }

/-- `push_rsp(v)` (00_scope.md R13, 10_state.md R49). -/
def State.pushRsp (s : State) (v : Word) : State := { s with rspFifo := s.rspFifo ++ [v] }

/-- The response FIFO is full (10_state.md R44, R49). -/
def State.rspFull (s : State) : Bool := decide (Config.rspDepth ≤ s.rspFifo.length)

/-- IP.IDLE when the command FIFO is now empty (10_state.md R46, 60_exceptions.md R545). -/
def State.noteIdle (s : State) : State := if s.cmdFifo.isEmpty then s.raiseIrq .idle else s

/-- Remove the command's len words and advance CP (10_state.md R48, R49): `cp <- cp + len`. -/
def State.consume (s : State) (len : Nat) : State :=
  State.noteIdle { s with cmdFifo := s.cmdFifo.drop len, cp := s.cp + BitVec.ofNat 32 len }

/-- The cause code (60_exceptions.md R541). -/
def Cause.code : Cause → Nat
  | .illegalOp => 1
  | .reserved => 2
  | .badCh => 3
  | .badSel => 4
  | .badN => 5
  | .badField => 6
  | .badValue => 7

/-- TAKING A COMMAND ERROR: the error path of 60_exceptions.md R545. The record takes the cause, the command's first
word and its CP; the words are consumed; the core halts; IP.ERR is set, and IP.IDLE if the FIFO is now empty. -/
def State.raiseError (s : State) (c : Cause) (cmd : Word) (len : Nat) : State :=
  State.consume
    { s with errCause := some c, errCmd := cmd, errCp := s.cp, halt := true, ip := s.ip ||| IrqBit.err.mask } len

/-- THE RETURN from a command error, the host's CTRL.ERRCLR (10_state.md R45, 60_exceptions.md R546): HALT and the
record cleared; IP.ERR is kept, and nothing is restored because nothing was saved. -/
def State.clearError (s : State) : State :=
  { s with halt := false, errCause := none, errCmd := 0, errCp := 0 }

/-- The response stall (45_control.md R451): a command that pushes a response makes no step while the response FIFO is
full. -/
def whenRoom (s : State) (go : Result State) : Result State := if s.rspFull then .next s else go

/-- A command whose checks gave a cause takes the error path; otherwise it goes on with what the checks resolved. -/
def checked {α : Type} (s : State) (cmd : Word) (len : Nat) (r : Except Cause α) (go : α → Result State) :
    Result State :=
  match r with
  | .error c => .next (s.raiseError c cmd len)
  | .ok a => go a

end Sys2Proof.Machine
end

