-- ==== Sys2Proof/Machine/Flags.lean ====
section
/-!
DEFINITION. The flag-like state as the host sees it: the FIFO levels, the interrupt words and the IRQ output
(10_state.md R44, R46, R49). CSC-1 has no arithmetic flags (10_state.md R44).
-/

namespace Sys2Proof.Machine

/-- CMDLEVEL (10_state.md R49). -/
def State.cmdLevel (s : State) : Nat := s.cmdFifo.length
/-- RSPLEVEL (10_state.md R49). -/
def State.rspLevel (s : State) : Nat := s.rspFifo.length

/-- `IRQ = ((IE & IP) != 0)` (10_state.md R46, 60_exceptions.md R549). -/
def State.irq (s : State) : Bool := (s.ie &&& s.ip) != 0

/-- An IP bit is set (10_state.md R46). -/
def State.pending (s : State) (b : IrqBit) : Bool := s.ip.getLsbD b.index

/-- ERRCAUSE as a word: bits 3:0 the code, 31:4 zero (10_state.md R47). -/
def State.errCauseWord (s : State) : Word :=
  match s.errCause with
  | none => 0
  | some c => BitVec.ofNat 32 c.code

/-- Write-1-to-clear of IP (10_state.md R46). -/
def State.ackIrq (s : State) (w : Word) : State := { s with ip := s.ip &&& ~~~(w.extractLsb' 0 6) }

end Sys2Proof.Machine
end

