-- ==== Sys2Proof/Syntax.lean ====
section
/-!
DEFINITION. The 18 commands of CSC-1 (30_encoding.md R165), one constructor per row of spec/opcode_table.json. A
command carries its fields as the command word has them, because every one of them is examined when the command
executes (60_exceptions.md R540, R543), and its operand words whole (30_encoding.md R161).
-/

namespace Sys2Proof

/-- A command: CH, SEL and N of its command word (30_encoding.md R160), then its operand words. -/
inductive Instr where
  /-- OP 0x00 (45_control.md R450) -/
  | nop (ch : BitVec 2) (sel n : BitVec 12)
  /-- OP 0x01; n is the tag (45_control.md R451) -/
  | sync (ch : BitVec 2) (sel n : BitVec 12)
  /-- OP 0x02; sel is the register (45_control.md R452) -/
  | wreg (ch : BitVec 2) (sel n : BitVec 12) (value : Word)
  /-- OP 0x03; sel is the register (45_control.md R453) -/
  | rreg (ch : BitVec 2) (sel n : BitVec 12)
  /-- OP 0x04 (45_control.md R454) -/
  | setfs (ch : BitVec 2) (sel n : BitVec 12) (fs : Word)
  /-- OP 0x05; sel is the unit (45_control.md R458) -/
  | clear (ch : BitVec 2) (sel n : BitVec 12)
  /-- OP 0x06; n is the block length (44_fdn_channel.md R397) -/
  | proc (ch : BitVec 2) (sel n : BitVec 12)
  /-- OP 0x08 (40_rng_vgen.md R210) -/
  | rngseed (ch : BitVec 2) (sel n : BitVec 12) (seed : Word)
  /-- OP 0x09 (40_rng_vgen.md R211) -/
  | rngu (ch : BitVec 2) (sel n : BitVec 12)
  /-- OP 0x0A (40_rng_vgen.md R212) -/
  | rngi (ch : BitVec 2) (sel n : BitVec 12)
  /-- OP 0x0B (40_rng_vgen.md R213) -/
  | rngf (ch : BitVec 2) (sel n : BitVec 12)
  /-- OP 0x0C (40_rng_vgen.md R214) -/
  | rngb (ch : BitVec 2) (sel n : BitVec 12)
  /-- OP 0x0D; n is the count (40_rng_vgen.md R215) -/
  | vgen (ch : BitVec 2) (sel n : BitVec 12) (seed : Word)
  /-- OP 0x0E; n is the count (40_rng_vgen.md R216) -/
  | vgenx (ch : BitVec 2) (sel n : BitVec 12) (seed cs : Word)
  /-- OP 0x10; sel is the biquad unit (41_filters.md R265) -/
  | bqresp (ch : BitVec 2) (sel n : BitVec 12) (freq : Word)
  /-- OP 0x11; sel is the unit, n the block length (46_diagnostic.md R502) -/
  | uproc (ch : BitVec 2) (sel n : BitVec 12)
  /-- OP 0x12; sel is the unit, n the field (46_diagnostic.md R503) -/
  | rder (ch : BitVec 2) (sel n : BitVec 12)
  /-- OP 0x13; sel is the unit, n the field (46_diagnostic.md R504) -/
  | wder (ch : BitVec 2) (sel n : BitVec 12) (value : Word)
  deriving DecidableEq, Repr

end Sys2Proof
end

