-- ==== Sys2Proof/Decode.lean ====
section
/-!
DEFINITION. Command encoding (30_encoding.md R160-R168): field extraction, lengths, the decoder of the command stream,
total on any list of words and rejecting by name, and the encoder written from the same tables.
-/

namespace Sys2Proof

/-- OP = w[31:26] (30_encoding.md R161). -/
def opField (w : Word) : BitVec 6 := w.extractLsb' 26 6
/-- CH = w[25:24] (30_encoding.md R161). -/
def chField (w : Word) : BitVec 2 := w.extractLsb' 24 2
/-- SEL = w[23:12] (30_encoding.md R161). -/
def selField (w : Word) : BitVec 12 := w.extractLsb' 12 12
/-- N = w[11:0] (30_encoding.md R161). -/
def nField (w : Word) : BitVec 12 := w.extractLsb' 0 12

/-- The command word of these fields (30_encoding.md R160). -/
def headWord (op : BitVec 6) (ch : BitVec 2) (sel n : BitVec 12) : Word := op ++ ch ++ sel ++ n

/-- The length in words, from OP alone; 1 for an illegal OP (30_encoding.md R163). -/
def opLen (op : BitVec 6) : Nat :=
  match op.toNat with
  | 0x02 => 2
  | 0x04 => 2
  | 0x08 => 2
  | 0x0D => 2
  | 0x0E => 3
  | 0x10 => 2
  | 0x13 => 2
  | _ => 1

/-- Why a command stream gives no command. -/
inductive DecodeError where
  /-- no word is there -/
  | empty
  /-- the head command needs more words than are there (WAITOP, 10_state.md R44) -/
  | incomplete
  /-- OP 0x07, 0x0F or 0x14-0x3F (30_encoding.md R167), with the word -/
  | illegalOp (w : Word)
  deriving DecidableEq, Repr

/-- A command and the words after it, or the reason there is none. -/
abbrev Decoded := Except DecodeError (Instr × List Word)

/-- A command with one operand word, from the words after its command word. -/
def operand1 (f : Word → Instr) : List Word → Decoded
  | v :: rest => .ok (f v, rest)
  | [] => .error .incomplete

/-- A command with two operand words, from the words after its command word. -/
def operand2 (f : Word → Word → Instr) : List Word → Decoded
  | v :: u :: rest => .ok (f v u, rest)
  | _ => .error .incomplete

/-- Decode a command from its command word and the words after it (30_encoding.md R165, R167). -/
def decodeHead (w : Word) (rest : List Word) : Decoded :=
  let c := chField w
  let s := selField w
  let n := nField w
  match (opField w).toNat with
  | 0x00 => .ok (.nop c s n, rest)
  | 0x01 => .ok (.sync c s n, rest)
  | 0x02 => operand1 (.wreg c s n) rest
  | 0x03 => .ok (.rreg c s n, rest)
  | 0x04 => operand1 (.setfs c s n) rest
  | 0x05 => .ok (.clear c s n, rest)
  | 0x06 => .ok (.proc c s n, rest)
  | 0x08 => operand1 (.rngseed c s n) rest
  | 0x09 => .ok (.rngu c s n, rest)
  | 0x0A => .ok (.rngi c s n, rest)
  | 0x0B => .ok (.rngf c s n, rest)
  | 0x0C => .ok (.rngb c s n, rest)
  | 0x0D => operand1 (.vgen c s n) rest
  | 0x0E => operand2 (.vgenx c s n) rest
  | 0x10 => operand1 (.bqresp c s n) rest
  | 0x11 => .ok (.uproc c s n, rest)
  | 0x12 => .ok (.rder c s n, rest)
  | 0x13 => operand1 (.wder c s n) rest
  | _ => .error (.illegalOp w)

/-- Decode the command at the head of a command stream. -/
def decode : List Word → Decoded
  | [] => .error .empty
  | w :: rest => decodeHead w rest

/-- The words of a command (30_encoding.md R165). -/
def encode : Instr → List Word
  | .nop c s n => [headWord 0x00 c s n]
  | .sync c s n => [headWord 0x01 c s n]
  | .wreg c s n v => [headWord 0x02 c s n, v]
  | .rreg c s n => [headWord 0x03 c s n]
  | .setfs c s n v => [headWord 0x04 c s n, v]
  | .clear c s n => [headWord 0x05 c s n]
  | .proc c s n => [headWord 0x06 c s n]
  | .rngseed c s n v => [headWord 0x08 c s n, v]
  | .rngu c s n => [headWord 0x09 c s n]
  | .rngi c s n => [headWord 0x0A c s n]
  | .rngf c s n => [headWord 0x0B c s n]
  | .rngb c s n => [headWord 0x0C c s n]
  | .vgen c s n v => [headWord 0x0D c s n, v]
  | .vgenx c s n v u => [headWord 0x0E c s n, v, u]
  | .bqresp c s n v => [headWord 0x10 c s n, v]
  | .uproc c s n => [headWord 0x11 c s n]
  | .rder c s n => [headWord 0x12 c s n]
  | .wder c s n v => [headWord 0x13 c s n, v]

/-- The 32-bit words of a number whose bit 0 is the least significant bit of the first word: three words, the longest
command, with every bit at and above nbits zero. -/
def tableWords (nbits w : Nat) : List Word :=
  let v := w % 2 ^ nbits
  [BitVec.ofNat 32 v, BitVec.ofNat 32 (v / 2 ^ 32), BitVec.ofNat 32 (v / 2 ^ 64)]

/-- The command the decoder reads from a number laid out as spec/opcode_table.json numbers its bits. -/
def decodeTableWord (nbits w : Nat) : Option Instr :=
  match decode (tableWords nbits w) with
  | .ok (i, _) => some i
  | .error _ => none

end Sys2Proof
end

