-- ==== Sys2Proof/Machine/Operands.lean ====
section
/-!
DEFINITION. Operand forms: the channel mask classes (30_encoding.md R162), unit numbers and field tables
(46_diagnostic.md R500, R501), and for every command the checks of its fields and operand words in the priority order
of 60_exceptions.md R543. A check reads the command's own words only (60_exceptions.md R540) and answers the resolved
operands, or the cause of the error.
-/

namespace Sys2Proof.Machine

/-! ### Channel masks -/

/-- Class one: 01 is L, 10 is R (30_encoding.md R162). -/
def oneChan (ch : BitVec 2) : Option Chan :=
  match ch.toNat with
  | 1 => some .L
  | 2 => some .R
  | _ => none

/-! ### Unit numbers -/

/-- A number below 12. -/
def fin12 (n : Nat) : Option (Fin 12) := if h : n < 12 then some ⟨n, h⟩ else none
/-- A number below 36. -/
def fin36 (n : Nat) : Option (Fin 36) := if h : n < 36 then some ⟨n, h⟩ else none
/-- A number below 256. -/
def fin256 (n : Nat) : Option (Fin 256) := if h : n < 256 then some ⟨n, h⟩ else none

/-- The unit k of line l, at 0x100 + 16·l + k (46_diagnostic.md R500). -/
def lineUnit (l : Fin 12) (k : Nat) : Option UnitRef :=
  match k with
  | 0 => some (.line l)
  | 1 => some (.mdly (.line l))
  | 2 => some (.diff (.line l))
  | 3 => some (.biquad (.lsh l))
  | 4 => some (.biquad (.hsh l))
  | 5 => some (.onePole (.damp l))
  | _ => none

/-- The unit numbers below 0x100 (46_diagnostic.md R500). -/
def lowUnit (k : Nat) : Option UnitRef :=
  match k with
  | 0x000 => some (.onePole .hpc)
  | 0x001 => some (.onePole .lpc)
  | 0x002 => some (.mdly .pre)
  | 0x003 => some .mt
  | 0x004 => some (.diff .ed)
  | 0x005 => some (.biquad .bqx)
  | 0x006 => some .chan
  | _ => if 0x010 ≤ k then (fin12 (k - 0x010)).map (fun s => .apf .ed s) else none

/-- The per-channel unit a SEL names (46_diagnostic.md R500). -/
def UnitRef.ofSel (sel : BitVec 12) : Option UnitRef :=
  let v := sel.toNat
  if v < 0x100 then lowUnit v
  else if v < 0x800 then
    match fin12 ((v - 0x100) / 16) with
    | some l => lineUnit l (v % 16)
    | none => none
  else
    match fin12 ((v - 0x800) / 16), fin12 (v % 16) with
    | some l, some s => some (.apf (.line l) s)
    | _, _ => none

/-- The unit number of the global RNG (46_diagnostic.md R500). -/
def rngSel : BitVec 12 := 0xF00

/-- The biquad unit a SEL names (41_filters.md R265). -/
def biquadOfSel (sel : BitVec 12) : Option BiquadRef :=
  match UnitRef.ofSel sel with
  | some (.biquad u) => some u
  | _ => none

/-! ### Fields -/

/-- ONEPOLE fields (46_diagnostic.md R501). -/
def OnePoleField.ofN (n : Nat) : Option OnePoleField :=
  match n with
  | 0 => some .mode
  | 1 => some .cutoff
  | 2 => some .a1
  | 3 => some .b0
  | 4 => some .y
  | _ => none

/-- BIQUAD fields (46_diagnostic.md R501). -/
def BiquadField.ofN (n : Nat) : Option BiquadField :=
  match n with
  | 0 => some .type
  | 1 => some .freq
  | 2 => some .gainDb
  | 3 => some .q
  | 4 => some .b0
  | 5 => some .b1
  | 6 => some .b2
  | 7 => some .a1
  | 8 => some .a2
  | 9 => some .x1
  | 10 => some .x2
  | 11 => some .y1
  | 12 => some .y2
  | _ => none

/-- MDLY fields; 1 and 12 are undefined (46_diagnostic.md R501). -/
def TapField.ofN (n : Nat) : Option TapField :=
  match n with
  | 0 => some .sd
  | 2 => some .amt
  | 3 => some .rate
  | 4 => some .phase
  | 5 => some .counter
  | 6 => some .mod
  | 7 => some .da
  | 8 => some .db
  | 9 => some .ga
  | 10 => some .gb
  | 11 => some .widx
  | _ => none

/-- APF fields (46_diagnostic.md R501). -/
def ApfField.ofN (n : Nat) : Option ApfField :=
  match n with
  | 1 => some .g
  | 12 => some .modEn
  | k => (TapField.ofN k).map .tap

/-- DIFF fields (46_diagnostic.md R501). -/
def DiffField.ofN (n : Nat) : Option DiffField :=
  match n with
  | 0 => some .count
  | 1 => some .seed
  | 2 => some .cs
  | 3 => some .nomDelay
  | 4 => some .nomAmt
  | 5 => some .nomRate
  | 6 => some .g
  | 7 => some .modEn
  | k => if 0x040 ≤ k then (fin36 (k - 0x040)).map .vec else none

/-- MT fields (46_diagnostic.md R501). -/
def MtField.ofN (n : Nat) : Option MtField :=
  match n with
  | 0 => some .count
  | 1 => some .len
  | 2 => some .decay
  | 3 => some .seed
  | 4 => some .cs
  | 5 => some .widx
  | k =>
    if k < 0x100 then none
    else if k < 0x200 then (fin256 (k - 0x100)).map .gain
    else if k < 0x300 then (fin256 (k - 0x200)).map .pos
    else if k < 0x400 then (fin256 (k - 0x300)).map .w
    else (fin256 (k - 0x400)).map .idx

/-- LINE fields (46_diagnostic.md R501). -/
def LineField.ofN (n : Nat) : Option LineField :=
  match n with
  | 0 => some .gain
  | 1 => some .fbLevel
  | 2 => some .fbRdPtr
  | _ => none

/-- CHAN fields (46_diagnostic.md R501). -/
def ChanField.ofN (n : Nat) : Option ChanField :=
  match n with
  | 0 => some .cs
  | 1 => some .lineCount
  | 2 => some .nomLine
  | 3 => some .decaySamples
  | k => if 0x040 ≤ k then (fin36 (k - 0x040)).map .lineVec else none

/-- The field N of a unit, by its kind (46_diagnostic.md R501). -/
def FieldRef.ofN (u : UnitRef) (n : BitVec 12) : Option FieldRef :=
  match u with
  | .onePole r => (OnePoleField.ofN n.toNat).map (.onePole r)
  | .biquad r => (BiquadField.ofN n.toNat).map (.biquad r)
  | .apf d s => (ApfField.ofN n.toNat).map (.apf d s)
  | .mdly r => (TapField.ofN n.toNat).map (.mdly r)
  | .diff r => (DiffField.ofN n.toNat).map (.diff r)
  | .mt => (MtField.ofN n.toNat).map .mt
  | .line l => (LineField.ofN n.toNat).map (.line l)
  | .chan => (ChanField.ofN n.toNat).map .chan

/-- How WDER may write a field of a tap whose buffer has n cells (46_diagnostic.md R501). -/
def TapField.writeType (n : Nat) : TapField → WriteType
  | .sd => .unsigned 1 (n - 2)
  | .amt => .float F32.zero (F32.ofNat n)
  | .rate => .float F32.zero F32.two
  | .phase => .float F32.zero F32.belowOne
  | .counter => .unsigned 0 8
  | .mod => .readOnly
  | .da => .readOnly
  | .db => .readOnly
  | .ga => .readOnly
  | .gb => .readOnly
  | .widx => .readOnly

/-- How WDER may write a field (46_diagnostic.md R501). -/
def FieldRef.writeType : FieldRef → WriteType
  | .onePole _ .mode => .readOnly
  | .onePole _ .cutoff => .readOnly
  | .onePole _ .a1 => .anyFloat
  | .onePole _ .b0 => .anyFloat
  | .onePole _ .y => .anyFloat
  | .biquad _ .type => .readOnly
  | .biquad _ .freq => .readOnly
  | .biquad _ .gainDb => .readOnly
  | .biquad _ .q => .readOnly
  | .biquad _ .b0 => .anyFloat
  | .biquad _ .b1 => .anyFloat
  | .biquad _ .b2 => .anyFloat
  | .biquad _ .a1 => .anyFloat
  | .biquad _ .a2 => .anyFloat
  | .biquad _ .x1 => .anyFloat
  | .biquad _ .x2 => .anyFloat
  | .biquad _ .y1 => .anyFloat
  | .biquad _ .y2 => .anyFloat
  | .apf _ _ (.tap f) => f.writeType Config.nAp
  | .apf _ _ .g => .float F32.zero F32.c0999
  | .apf _ _ .modEn => .readOnly
  | .mdly _ f => f.writeType Config.nMd
  | .diff _ _ => .readOnly
  | .mt _ => .readOnly
  | .line _ .gain => .float F32.zero F32.belowOne
  | .line _ .fbLevel => .readOnly
  | .line _ .fbRdPtr => .readOnly
  | .chan _ => .readOnly

/-- The word WDER stores, or the cause of its refusal: BAD_FIELD for a field not marked W, BAD_VALUE for a NaN
(46_diagnostic.md R504). -/
def WriteType.accept : WriteType → Word → Except Cause Word
  | .readOnly, _ => .error .badField
  | .anyFloat, w => if F32.isNaN ⟨w⟩ then .error .badValue else .ok w
  | .float lo hi, w => if F32.isNaN ⟨w⟩ then .error .badValue else .ok (F32.clamp ⟨w⟩ lo hi).bits
  | .unsigned lo hi, w => .ok (BitVec.ofNat 32 (clampi w.toNat lo hi))

/-! ### The checks of each command, lowest cause first (60_exceptions.md R543, R544) -/

/-- NOP, and every command whose CH, SEL and N are all reserved-zero (45_control.md R450). -/
def noFieldsCheck (ch : BitVec 2) (sel n : BitVec 12) : Except Cause Unit :=
  if ch != 0 || sel != 0 || n != 0 then .error .reserved else .ok ()

/-- SYNC: N is the tag (45_control.md R451). -/
def syncCheck (ch : BitVec 2) (sel : BitVec 12) : Except Cause Unit :=
  if ch != 0 || sel != 0 then .error .reserved else .ok ()

/-- WREG: the register and the word to store (45_control.md R452). -/
def wregCheck (ch : BitVec 2) (sel n : BitVec 12) (value : Word) : Except Cause (Reg × Word) :=
  if n != 0 then .error .reserved
  else if ch == 0 then .error .badCh
  else
    match Reg.ofSel sel with
    | none => .error .badSel
    | some (.glob .fs) => .error .badSel
    | some r =>
      match r.type.accept value with
      | none => .error .badValue
      | some v => .ok (r, v)

/-- RREG: the channel and the register (45_control.md R453). -/
def rregCheck (ch : BitVec 2) (sel n : BitVec 12) : Except Cause (Chan × Reg) :=
  if n != 0 then .error .reserved
  else
    match oneChan ch with
    | none => .error .badCh
    | some c =>
      match Reg.ofSel sel with
      | none => .error .badSel
      | some r => .ok (c, r)

/-- SETFS: the clamped rate (45_control.md R454). -/
def setfsCheck (ch : BitVec 2) (sel n : BitVec 12) (fs : Word) : Except Cause F32 :=
  if ch != 0 || sel != 0 || n != 0 then .error .reserved
  else if F32.isNaN ⟨fs⟩ then .error .badValue
  else .ok (F32.clamp ⟨fs⟩ Config.fsMin Config.fsMax)

/-- CLEAR: the unit (45_control.md R458). -/
def clearCheck (ch : BitVec 2) (sel n : BitVec 12) : Except Cause UnitRef :=
  if n != 0 then .error .reserved
  else if ch == 0 then .error .badCh
  else
    match UnitRef.ofSel sel with
    | none => .error .badSel
    | some u => .ok u

/-- A count within 1..hi (60_exceptions.md R541, BAD_N). -/
def countCheck (n : BitVec 12) (hi : Nat) : Except Cause Nat :=
  if n == 0 || decide (hi < n.toNat) then .error .badN else .ok n.toNat

/-- PROC: the block length (44_fdn_channel.md R397). -/
def procCheck (ch : BitVec 2) (sel n : BitVec 12) : Except Cause Nat :=
  if ch != 0 || sel != 0 then .error .reserved else countCheck n Config.bs

/-- VGEN: the count (40_rng_vgen.md R215). -/
def vgenCheck (ch : BitVec 2) (sel n : BitVec 12) : Except Cause Nat :=
  if ch != 0 || sel != 0 then .error .reserved else countCheck n Config.vecLen

/-- VGENX: the count and the clamped cross-seed (40_rng_vgen.md R216). -/
def vgenxCheck (ch : BitVec 2) (sel n : BitVec 12) (cs : Word) : Except Cause (Nat × F32) :=
  match vgenCheck ch sel n with
  | .error c => .error c
  | .ok k => if F32.isNaN ⟨cs⟩ then .error .badValue else .ok (k, F32.clamp ⟨cs⟩ F32.zero F32.one)

/-- BQRESP: the channel, the biquad and the frequency (41_filters.md R265). -/
def bqrespCheck (ch : BitVec 2) (sel n : BitVec 12) (freq : Word) : Except Cause (Chan × BiquadRef × F32) :=
  if n != 0 then .error .reserved
  else
    match oneChan ch with
    | none => .error .badCh
    | some c =>
      match biquadOfSel sel with
      | none => .error .badSel
      | some u => if F32.isNaN ⟨freq⟩ then .error .badValue else .ok (c, u, ⟨freq⟩)

/-- UPROC: the channel, the unit and the block length (46_diagnostic.md R502). -/
def uprocCheck (ch : BitVec 2) (sel n : BitVec 12) : Except Cause (Chan × UnitRef × Nat) :=
  match oneChan ch with
  | none => .error .badCh
  | some c =>
    match UnitRef.ofSel sel with
    | none => .error .badSel
    | some u =>
      match countCheck n Config.bs with
      | .error e => .error e
      | .ok k => .ok (c, u, k)

/-- RDER: what it reads (46_diagnostic.md R503). -/
def rderCheck (ch : BitVec 2) (sel n : BitVec 12) : Except Cause RderRef :=
  if sel == rngSel then
    if ch != 0 then .error .badCh
    else if n != 0 then .error .badField
    else .ok .rng
  else
    match oneChan ch with
    | none => .error .badCh
    | some c =>
      match UnitRef.ofSel sel with
      | none => .error .badSel
      | some u =>
        match FieldRef.ofN u n with
        | none => .error .badField
        | some f => .ok (.unit c f)

/-- WDER: what it writes, and the word it stores (46_diagnostic.md R504). -/
def wderCheck (ch : BitVec 2) (sel n : BitVec 12) (value : Word) : Except Cause WderRef :=
  if sel == rngSel then
    if ch != 0 then .error .badCh
    else if n != 0 then .error .badField
    else .ok (.rng value)
  else if ch == 0 then .error .badCh
  else
    match UnitRef.ofSel sel with
    | none => .error .badSel
    | some u =>
      match FieldRef.ofN u n with
      | none => .error .badField
      | some f =>
        match f.writeType.accept value with
        | .error e => .error e
        | .ok v => .ok (.unit f v)

/-- The cause of a check that refuses. -/
def causeOf {α : Type} : Except Cause α → Option Cause
  | .error c => some c
  | .ok _ => none

/-- The error a command raises, from its words alone (60_exceptions.md R540, R543, R544). -/
def instrError : Instr → Option Cause
  | .nop ch sel n => causeOf (noFieldsCheck ch sel n)
  | .sync ch sel _ => causeOf (syncCheck ch sel)
  | .wreg ch sel n v => causeOf (wregCheck ch sel n v)
  | .rreg ch sel n => causeOf (rregCheck ch sel n)
  | .setfs ch sel n v => causeOf (setfsCheck ch sel n v)
  | .clear ch sel n => causeOf (clearCheck ch sel n)
  | .proc ch sel n => causeOf (procCheck ch sel n)
  | .rngseed ch sel n _ => causeOf (noFieldsCheck ch sel n)
  | .rngu ch sel n => causeOf (noFieldsCheck ch sel n)
  | .rngi ch sel n => causeOf (noFieldsCheck ch sel n)
  | .rngf ch sel n => causeOf (noFieldsCheck ch sel n)
  | .rngb ch sel n => causeOf (noFieldsCheck ch sel n)
  | .vgen ch sel n _ => causeOf (vgenCheck ch sel n)
  | .vgenx ch sel n _ cs => causeOf (vgenxCheck ch sel n cs)
  | .bqresp ch sel n v => causeOf (bqrespCheck ch sel n v)
  | .uproc ch sel n => causeOf (uprocCheck ch sel n)
  | .rder ch sel n => causeOf (rderCheck ch sel n)
  | .wder ch sel n v => causeOf (wderCheck ch sel n v)

end Sys2Proof.Machine
end

