-- ==== Sys2Proof/Machine/Control.lean ====
section
/-!
DEFINITION. The control commands NOP, SYNC, WREG, RREG, SETFS and CLEAR (45_control.md R450-R459).
-/

namespace Sys2Proof.Machine

/-- NOP (45_control.md R450). -/
def execNop (ch : BitVec 2) (sel n : BitVec 12) (s : State) : Result State :=
  checked s (headWord 0x00 ch sel n) 1 (noFieldsCheck ch sel n) (fun _ => .next (s.consume 1))

/-- SYNC tag (45_control.md R451). -/
def execSync (ch : BitVec 2) (sel n : BitVec 12) (s : State) : Result State :=
  whenRoom s (checked s (headWord 0x01 ch sel n) 1 (syncCheck ch sel)
    (fun _ => .next (((s.pushRsp (n.setWidth 32)).raiseIrq .sync).consume 1)))

/-- Store a register word and run its write effect on each selected channel, L first; a global register has one copy
and no effect (45_control.md R452, R456; 10_state.md R51). -/
def State.writeReg (T : Transc) (s : State) (mask : BitVec 2) (r : Reg) (v : Word) : State :=
  match r with
  | .glob g => { s with glob := s.glob.set g v }
  | .chan c => s.onChannels mask (fun ch k => k.writeReg T s.glob.fs ch c v)

/-- WREG with the given transcendental functions (45_control.md R452). -/
def wregWith (T : Transc) (ch : BitVec 2) (sel n : BitVec 12) (value : Word) (s : State) : Result State :=
  checked s (headWord 0x02 ch sel n) 2 (wregCheck ch sel n value)
    (fun p => .next ((s.writeReg T ch p.1 p.2).consume 2))

/-- WREG ch, reg, value (45_control.md R452). -/
def execWreg (ch : BitVec 2) (sel n : BitVec 12) (value : Word) (s : State) : Result State :=
  wregWith Config.transc ch sel n value s

/-- RREG ch, reg (45_control.md R453). -/
def execRreg (ch : BitVec 2) (sel n : BitVec 12) (s : State) : Result State :=
  whenRoom s (checked s (headWord 0x03 ch sel n) 1 (rregCheck ch sel n)
    (fun p => .next ((s.pushRsp (s.readReg p.1 p.2)).consume 1)))

/-- Set the rate, derive everything in both channels, then clear everything in both (45_control.md R454). -/
def State.setRate (T : Transc) (s : State) (fs : F32) : State :=
  { s with glob := { s.glob with fs := fs },
           chL := (s.chL.deriveAll T fs .L).clearAll,
           chR := (s.chR.deriveAll T fs .R).clearAll }

/-- SETFS with the given transcendental functions (45_control.md R454). -/
def setfsWith (T : Transc) (ch : BitVec 2) (sel n : BitVec 12) (fs : Word) (s : State) : Result State :=
  checked s (headWord 0x04 ch sel n) 2 (setfsCheck ch sel n fs) (fun f => .next ((s.setRate T f).consume 2))

/-- SETFS fs (45_control.md R454). -/
def execSetfs (ch : BitVec 2) (sel n : BitVec 12) (fs : Word) (s : State) : Result State :=
  setfsWith Config.transc ch sel n fs s

/-- CLEAR ch, unit (45_control.md R458, R462). -/
def execClear (ch : BitVec 2) (sel n : BitVec 12) (s : State) : Result State :=
  checked s (headWord 0x05 ch sel n) 1 (clearCheck ch sel n)
    (fun u => .next ((s.onChannels ch (fun _ c => c.clearUnit u)).consume 1))

end Sys2Proof.Machine
end

