-- ==== Sys2Proof/Machine/Diagnostic.lean ====
section
/-!
DEFINITION. The diagnostic commands UPROC, RDER and WDER (46_diagnostic.md R500-R504).
-/

namespace Sys2Proof.Machine

/-! ### Running one unit -/

/-- Run one unit of a channel alone on a block, whatever enable gates it in the signal path (46_diagnostic.md
R502). -/
def Channel.runUnit (T : Transc) (interp : Bool) (c : Channel) (u : UnitRef) (x : List F32) : Channel × List F32 :=
  match u with
  | .onePole r => let (v, y) := runBlock OnePole.step (c.onePole r) x; (c.setOnePole r v, y)
  | .biquad r => let (v, y) := runBlock Biquad.step (c.biquad r) x; (c.setBiquad r v, y)
  | .apf d k => let (v, y) := runBlock (Apf.step T interp) (c.apf d k) x; (c.setApf d k v, y)
  | .mdly r => let (v, y) := runBlock (Tap.step T interp) (c.mdly r) x; (c.setMdly r v, y)
  | .diff r => let (v, y) := runBlock (Diff.step T interp) (c.diff r) x; (c.setDiff r v, y)
  | .mt => let (v, y) := runBlock Mt.step c.mt x; ({ c with mt := v }, y)
  | .line l => let (v, y) := (c.lines.get l).block T interp c.regs x; (c.setLine l v, y)
  | .chan => c.block T interp x

/-- The state after a unit's run on x and the stores of its output (46_diagnostic.md R502). -/
def State.runUnit (T : Transc) (s : State) (ch : Chan) (u : UnitRef) (x : List F32) : State :=
  let (c, y) := (s.chan ch).runUnit T s.glob.interpEn u x
  State.storeFrom ch.output 0 y (s.setChan ch c)

/-- UPROC with the given transcendental functions (46_diagnostic.md R502). -/
def uprocWith (T : Transc) (ch : BitVec 2) (sel n : BitVec 12) (s : State) : Result State :=
  checked s (headWord 0x11 ch sel n) 1 (uprocCheck ch sel n) (fun p =>
    match s.loadFrom p.1.input 0 p.2.2 with
    | some x => .next ((s.runUnit T p.1 p.2.1 x).consume 1)
    | none => .fault .uninit)

/-- UPROC ch, unit, n (46_diagnostic.md R502). -/
def execUproc (ch : BitVec 2) (sel n : BitVec 12) (s : State) : Result State := uprocWith Config.transc ch sel n s

/-! ### Reading fields -/

/-- A natural number as a zero-extended word. -/
def natWord (n : Nat) : Word := BitVec.ofNat 32 n

/-- The word of a ONEPOLE field (46_diagnostic.md R501). -/
def OnePole.field (u : OnePole) : OnePoleField → Word
  | .mode => boolWord u.highPass
  | .cutoff => u.cutoff.bits
  | .a1 => u.a1.bits
  | .b0 => u.b0.bits
  | .y => u.y.bits

/-- The word of a BIQUAD field (46_diagnostic.md R501). -/
def Biquad.field (u : Biquad) : BiquadField → Word
  | .type => natWord u.type.toNat
  | .freq => u.freq.bits
  | .gainDb => u.gainDb.bits
  | .q => u.q.bits
  | .b0 => u.b0.bits
  | .b1 => u.b1.bits
  | .b2 => u.b2.bits
  | .a1 => u.a1.bits
  | .a2 => u.a2.bits
  | .x1 => u.x1.bits
  | .x2 => u.x2.bits
  | .y1 => u.y1.bits
  | .y2 => u.y2.bits

/-- The word of a field APF and MDLY share (46_diagnostic.md R501). -/
def Tap.field (t : Tap) : TapField → Word
  | .sd => natWord t.sd
  | .amt => t.amt.bits
  | .rate => t.rate.bits
  | .phase => t.phase.bits
  | .counter => natWord t.counter
  | .mod => t.mod.bits
  | .da => natWord t.da
  | .db => natWord t.db
  | .ga => t.ga.bits
  | .gb => t.gb.bits
  | .widx => natWord t.widx

/-- The word of an APF field (46_diagnostic.md R501). -/
def Apf.field (u : Apf) : ApfField → Word
  | .tap f => u.tap.field f
  | .g => u.g.bits
  | .modEn => boolWord u.modEn

/-- The word of a DIFF field (46_diagnostic.md R501). -/
def Diff.field (d : Diff) : DiffField → Word
  | .count => natWord d.count
  | .seed => d.seed
  | .cs => d.cs.bits
  | .nomDelay => d.nomDelay.bits
  | .nomAmt => d.nomAmt.bits
  | .nomRate => d.nomRate.bits
  | .g => d.g.bits
  | .modEn => boolWord d.modEn
  | .vec k => (vecAt d.vec k).bits

/-- The word of an MT field; W[j] and IDX[j] read +0 and 0 for j >= COUNT (46_diagnostic.md R501). -/
def Mt.field (m : Mt) : MtField → Word
  | .count => natWord m.count
  | .len => m.len.bits
  | .decay => m.decay.bits
  | .seed => m.seed
  | .cs => m.cs.bits
  | .widx => natWord m.widx
  | .gain j => (vecAt m.gain j).bits
  | .pos j => (vecAt m.pos j).bits
  | .w j => if j.val < m.count then (vecAt m.w j).bits else F32.zero.bits
  | .idx j => if j.val < m.count then BitVec.ofInt 32 (m.idx.getD j 0) else 0

/-- The word of a LINE field (46_diagnostic.md R501). -/
def Line.field (l : Line) : LineField → Word
  | .gain => l.gain.bits
  | .fbLevel => natWord l.fb.level
  | .fbRdPtr => natWord l.fb.rd

/-- The word of a CHAN field (46_diagnostic.md R501). -/
def Channel.chanField (c : Channel) : ChanField → Word
  | .cs => c.cs.bits
  | .lineCount => c.regs.lateLineCount
  | .nomLine => c.nomLine.bits
  | .decaySamples => c.decaySamples.bits
  | .lineVec k => (vecAt c.lineVec k).bits

/-- The word of a field of a channel (46_diagnostic.md R503). -/
def Channel.readField (c : Channel) : FieldRef → Word
  | .onePole r f => (c.onePole r).field f
  | .biquad r f => (c.biquad r).field f
  | .apf d k f => (c.apf d k).field f
  | .mdly r f => (c.mdly r).field f
  | .diff r f => (c.diff r).field f
  | .mt f => c.mt.field f
  | .line l f => (c.lines.get l).field f
  | .chan f => c.chanField f

/-- The word RDER pushes (46_diagnostic.md R503). -/
def State.readRef (s : State) : RderRef → Word
  | .rng => s.x
  | .unit c f => (s.chan c).readField f

/-- RDER ch, unit, field (46_diagnostic.md R503). -/
def execRder (ch : BitVec 2) (sel n : BitVec 12) (s : State) : Result State :=
  whenRoom s (checked s (headWord 0x12 ch sel n) 1 (rderCheck ch sel n)
    (fun r => .next ((s.pushRsp (s.readRef r)).consume 1)))

/-! ### Writing fields (the read-only ones never reach here: wderCheck refuses them, and they stay) -/

/-- Write a ONEPOLE field (46_diagnostic.md R501). -/
def OnePole.setField (u : OnePole) (f : OnePoleField) (w : Word) : OnePole :=
  match f with
  | .mode => u
  | .cutoff => u
  | .a1 => { u with a1 := ⟨w⟩ }
  | .b0 => { u with b0 := ⟨w⟩ }
  | .y => { u with y := ⟨w⟩ }

/-- Write a BIQUAD field (46_diagnostic.md R501). -/
def Biquad.setField (u : Biquad) (f : BiquadField) (w : Word) : Biquad :=
  match f with
  | .type => u
  | .freq => u
  | .gainDb => u
  | .q => u
  | .b0 => { u with b0 := ⟨w⟩ }
  | .b1 => { u with b1 := ⟨w⟩ }
  | .b2 => { u with b2 := ⟨w⟩ }
  | .a1 => { u with a1 := ⟨w⟩ }
  | .a2 => { u with a2 := ⟨w⟩ }
  | .x1 => { u with x1 := ⟨w⟩ }
  | .x2 => { u with x2 := ⟨w⟩ }
  | .y1 => { u with y1 := ⟨w⟩ }
  | .y2 => { u with y2 := ⟨w⟩ }

/-- Write a field of a tap with an n-cell buffer; SD, AMT and RATE refresh it (46_diagnostic.md R504). -/
def Tap.setField (n : Nat) (t : Tap) (f : TapField) (w : Word) : Tap :=
  match f with
  | .sd => Tap.refresh n { t with sd := w.toNat }
  | .amt => Tap.refresh n { t with amt := ⟨w⟩ }
  | .rate => Tap.refresh n { t with rate := ⟨w⟩ }
  | .phase => { t with phase := ⟨w⟩ }
  | .counter => { t with counter := w.toNat }
  | .mod => t
  | .da => t
  | .db => t
  | .ga => t
  | .gb => t
  | .widx => t

/-- Write an APF field (46_diagnostic.md R501). -/
def Apf.setField (u : Apf) (f : ApfField) (w : Word) : Apf :=
  match f with
  | .tap t => { u with tap := u.tap.setField Config.nAp t w }
  | .g => { u with g := ⟨w⟩ }
  | .modEn => u

/-- Write a LINE field (46_diagnostic.md R501). -/
def Line.setField (l : Line) (f : LineField) (w : Word) : Line :=
  match f with
  | .gain => { l with gain := ⟨w⟩ }
  | .fbLevel => l
  | .fbRdPtr => l

/-- Write a field of a channel (46_diagnostic.md R504). -/
def Channel.writeField (c : Channel) (f : FieldRef) (w : Word) : Channel :=
  match f with
  | .onePole r g => c.setOnePole r ((c.onePole r).setField g w)
  | .biquad r g => c.setBiquad r ((c.biquad r).setField g w)
  | .apf d k fld => c.setApf d k ((c.apf d k).setField fld w)
  | .mdly r g => c.setMdly r ((c.mdly r).setField Config.nMd g w)
  | .diff _ _ => c
  | .mt _ => c
  | .line l g => c.setLine l ((c.lines.get l).setField g w)
  | .chan _ => c

/-- What WDER writes (46_diagnostic.md R504). -/
def State.writeRef (s : State) (mask : BitVec 2) : WderRef → State
  | .rng v => { s with x := v }
  | .unit f v => s.onChannels mask (fun _ c => c.writeField f v)

/-- WDER ch, unit, field, value (46_diagnostic.md R504). -/
def execWder (ch : BitVec 2) (sel n : BitVec 12) (value : Word) (s : State) : Result State :=
  checked s (headWord 0x13 ch sel n) 2 (wderCheck ch sel n value) (fun r => .next ((s.writeRef ch r).consume 2))

end Sys2Proof.Machine
end

