-- ==== Sys2Proof/Machine/Proc.lean ====
section
/-!
DEFINITION. PROC, the stereo block command (44_fdn_channel.md R397).
-/

namespace Sys2Proof.Machine

/-- The state after both channel blocks on these inputs and the stores of their outputs, L first
(44_fdn_channel.md R397). -/
def State.procBlock (T : Transc) (s : State) (a b : List F32) : State :=
  let (l, oL) := s.chL.block T s.glob.interpEn (crossMix s.glob.inputMix a b)
  let (r, oR) := s.chR.block T s.glob.interpEn (crossMix s.glob.inputMix b a)
  State.storeFrom .outR 0 oR (State.storeFrom .outL 0 oL { s with chL := l, chR := r })

/-- PROC with the given transcendental functions (44_fdn_channel.md R397). Both inputs are read in full first; an
unwritten IN word is the fault UNINIT (70_reset_and_hazards.md R620). -/
def procWith (T : Transc) (ch : BitVec 2) (sel n : BitVec 12) (s : State) : Result State :=
  checked s (headWord 0x06 ch sel n) 1 (procCheck ch sel n) (fun k =>
    match s.loadFrom .inL 0 k, s.loadFrom .inR 0 k with
    | some a, some b => .next ((s.procBlock T a b).consume 1)
    | _, _ => .fault .uninit)

/-- PROC n (44_fdn_channel.md R397). -/
def execProc (ch : BitVec 2) (sel n : BitVec 12) (s : State) : Result State := procWith Config.transc ch sel n s

end Sys2Proof.Machine
end

