-- ==== Sys2Proof/Machine/Response.lean ====
section
/-!
DEFINITION. BQRESP, the biquad response query (41_filters.md R264, R265).
-/

namespace Sys2Proof.Machine

/-- BQRESP with the given transcendental functions (41_filters.md R265). -/
def bqrespWith (T : Transc) (ch : BitVec 2) (sel n : BitVec 12) (freq : Word) (s : State) : Result State :=
  whenRoom s (checked s (headWord 0x10 ch sel n) 2 (bqrespCheck ch sel n freq)
    (fun p => .next ((s.pushRsp (((s.chan p.1).biquad p.2.1).resp T s.glob.fs p.2.2).bits).consume 2)))

/-- BQRESP ch, unit, freq (41_filters.md R265). -/
def execBqresp (ch : BitVec 2) (sel n : BitVec 12) (freq : Word) (s : State) : Result State :=
  bqrespWith Config.transc ch sel n freq s

end Sys2Proof.Machine
end

