-- ==== Sys2Proof/Machine/Rng.lean ====
section
/-!
DEFINITION. The generator commands RNGSEED, RNGU, RNGI, RNGF, RNGB, VGEN and VGENX (40_rng_vgen.md R210-R216).
-/

namespace Sys2Proof.Machine

/-- RNGSEED seed (40_rng_vgen.md R210). -/
def execRngseed (ch : BitVec 2) (sel n : BitVec 12) (seed : Word) (s : State) : Result State :=
  checked s (headWord 0x08 ch sel n) 2 (noFieldsCheck ch sel n)
    (fun _ => .next (State.consume { s with x := seed } 2))

/-- Advance X by one LCG step and push what this draw shows of the new X (40_rng_vgen.md R201-R204). -/
def State.drawRng (s : State) (shown : Word → Word) : State :=
  State.pushRsp { s with x := lcg s.x } (shown (lcg s.x))

/-- A draw command: no fields, a response, one word (40_rng_vgen.md R211-R214). -/
def drawCommand (op : BitVec 6) (shown : Word → Word) (ch : BitVec 2) (sel n : BitVec 12) (s : State) : Result State :=
  whenRoom s (checked s (headWord op ch sel n) 1 (noFieldsCheck ch sel n)
    (fun _ => .next ((s.drawRng shown).consume 1)))

/-- RNGU (40_rng_vgen.md R211). -/
def execRngu (ch : BitVec 2) (sel n : BitVec 12) (s : State) : Result State :=
  drawCommand 0x09 (fun v => v) ch sel n s

/-- RNGI (40_rng_vgen.md R212). -/
def execRngi (ch : BitVec 2) (sel n : BitVec 12) (s : State) : Result State :=
  drawCommand 0x0A int31 ch sel n s

/-- RNGF (40_rng_vgen.md R213). -/
def execRngf (ch : BitVec 2) (sel n : BitVec 12) (s : State) : Result State :=
  drawCommand 0x0B (fun v => (unitFloat v).bits) ch sel n s

/-- RNGB (40_rng_vgen.md R214). -/
def execRngb (ch : BitVec 2) (sel n : BitVec 12) (s : State) : Result State :=
  drawCommand 0x0C (fun v => (bipolarFloat v).bits) ch sel n s

/-- VGEN count, seed (40_rng_vgen.md R215). -/
def execVgen (ch : BitVec 2) (sel n : BitVec 12) (seed : Word) (s : State) : Result State :=
  checked s (headWord 0x0D ch sel n) 2 (vgenCheck ch sel n)
    (fun count => .next ((State.storeFrom .vec 0 (generate seed count) s).consume 2))

/-- VGENX count, seed, cs (40_rng_vgen.md R216). -/
def execVgenx (ch : BitVec 2) (sel n : BitVec 12) (seed cs : Word) (s : State) : Result State :=
  checked s (headWord 0x0E ch sel n) 3 (vgenxCheck ch sel n cs)
    (fun p => .next ((State.storeFrom .vec 0 (generateX seed p.1 p.2) s).consume 3))

end Sys2Proof.Machine
end

