-- ==== Sys2Proof/Machine/Dispatch.lean ====
section
/-!
DEFINITION. The dispatch of a command to its meaning, one arm per constructor.
-/

namespace Sys2Proof.Machine

/-- Execute one whole command as one step of the core (00_scope.md R14, 20_memory.md R129). -/
def exec (i : Instr) (s : State) : Host.Outcome State Fault Refusal :=
  match i with
  | .nop ch sel n => Sys2Proof.Machine.execNop ch sel n s
  | .sync ch sel n => Sys2Proof.Machine.execSync ch sel n s
  | .wreg ch sel n value => Sys2Proof.Machine.execWreg ch sel n value s
  | .rreg ch sel n => Sys2Proof.Machine.execRreg ch sel n s
  | .setfs ch sel n fs => Sys2Proof.Machine.execSetfs ch sel n fs s
  | .clear ch sel n => Sys2Proof.Machine.execClear ch sel n s
  | .proc ch sel n => Sys2Proof.Machine.execProc ch sel n s
  | .rngseed ch sel n seed => Sys2Proof.Machine.execRngseed ch sel n seed s
  | .rngu ch sel n => Sys2Proof.Machine.execRngu ch sel n s
  | .rngi ch sel n => Sys2Proof.Machine.execRngi ch sel n s
  | .rngf ch sel n => Sys2Proof.Machine.execRngf ch sel n s
  | .rngb ch sel n => Sys2Proof.Machine.execRngb ch sel n s
  | .vgen ch sel n seed => Sys2Proof.Machine.execVgen ch sel n seed s
  | .vgenx ch sel n seed cs => Sys2Proof.Machine.execVgenx ch sel n seed cs s
  | .bqresp ch sel n freq => Sys2Proof.Machine.execBqresp ch sel n freq s
  | .uproc ch sel n => Sys2Proof.Machine.execUproc ch sel n s
  | .rder ch sel n => Sys2Proof.Machine.execRder ch sel n s
  | .wder ch sel n value => Sys2Proof.Machine.execWder ch sel n value s

end Sys2Proof.Machine
end

