-- ==== Sys2Proof/Machine/Fetch.lean ====
section
/-!
DEFINITION. Fetching: what the core finds at the head of the command FIFO (30_encoding.md R163, R167), and the STATUS
word that shows it to the host (10_state.md R44).
-/

namespace Sys2Proof.Machine

/-- What the core's turn finds. -/
inductive Fetch where
  /-- no step to make: HALT, an empty FIFO, or an incomplete command -/
  | idle
  /-- an illegal opcode -/
  | illegal (w : Word)
  /-- a complete command -/
  | run (i : Instr)
  deriving DecidableEq, Repr

/-- The command a core step executes (10_state.md R47, 30_encoding.md R163). -/
def State.fetch (s : State) : Fetch :=
  if s.halt then .idle
  else
    match decode s.cmdFifo with
    | .ok (i, _) => .run i
    | .error .empty => .idle
    | .error .incomplete => .idle
    | .error (.illegalOp w) => .illegal w

/-- The OPs that push a response: SYNC, RREG, RNGU, RNGI, RNGF, RNGB, BQRESP, RDER (45_control.md R451). -/
def pushesResponse (op : BitVec 6) : Bool :=
  match op.toNat with
  | 0x01 => true
  | 0x03 => true
  | 0x09 => true
  | 0x0A => true
  | 0x0B => true
  | 0x0C => true
  | 0x10 => true
  | 0x12 => true
  | _ => false

/-- STATUS.WAITOP (10_state.md R44). -/
def State.waitOp (s : State) : Bool :=
  match s.cmdFifo with
  | [] => false
  | w :: _ => !s.halt && decide (s.cmdLevel < opLen (opField w))

/-- STATUS.STALL (10_state.md R44, 45_control.md R451). -/
def State.stall (s : State) : Bool :=
  match s.cmdFifo with
  | [] => false
  | w :: _ => !s.halt && !s.waitOp && pushesResponse (opField w) && s.rspFull

/-- A status bit at its place. -/
def statusBit (b : Bool) (k : Nat) : Word := if b then 1#32 <<< k else 0

/-- STATUS, computed from the current state (10_state.md R44). -/
def State.status (s : State) : Word :=
  statusBit (s.cmdLevel != 0) 0 ||| statusBit s.halt 1 ||| statusBit (s.cmdLevel == Config.cmdDepth) 2 |||
    statusBit (s.rspLevel != 0) 3 ||| statusBit (s.rspLevel == Config.rspDepth) 4 ||| statusBit s.waitOp 5 |||
    statusBit s.stall 6

end Sys2Proof.Machine
end

