-- ==== Sys2Proof/Machine/Host.lean ====
section
/-!
DEFINITION. The host's accesses to the host window (20_memory.md R120-R128): bus errors, the host register block
(10_state.md R42-R49), CTRL and the soft reset, the sample and vector words, region ownership and the HAZARD fault
(20_memory.md R133, 70_reset_and_hazards.md R620).
-/

namespace Sys2Proof.Machine

/-! ### Region ownership -/

/-- The first words of the commands pending in the command FIFO, an incomplete last one included; the first argument
counts operand words still to skip. -/
def pendingHeads : Nat → List Word → List Word
  | _, [] => []
  | k + 1, _ :: ws => pendingHeads k ws
  | 0, w :: ws => w :: pendingHeads (opLen (opField w) - 1) ws

/-- Whether a pending command with this first word reads word k of a region (20_memory.md R133). -/
def ownsRead (w : Word) (r : Region) (k : Nat) : Bool :=
  match (opField w).toNat, r with
  | 0x06, .inL => decide (k < (nField w).toNat)
  | 0x06, .inR => decide (k < (nField w).toNat)
  | 0x11, .inL => (chField w).getLsbD 0 && decide (k < (nField w).toNat)
  | 0x11, .inR => (chField w).getLsbD 1 && decide (k < (nField w).toNat)
  | _, _ => false

/-- Whether a pending command with this first word writes word k of a region (20_memory.md R133). -/
def ownsWrite (w : Word) (r : Region) (k : Nat) : Bool :=
  match (opField w).toNat, r with
  | 0x06, .outL => decide (k < (nField w).toNat)
  | 0x06, .outR => decide (k < (nField w).toNat)
  | 0x11, .outL => (chField w).getLsbD 0 && decide (k < (nField w).toNat)
  | 0x11, .outR => (chField w).getLsbD 1 && decide (k < (nField w).toNat)
  | 0x0D, .vec => decide (k < (nField w).toNat)
  | 0x0E, .vec => decide (k < (nField w).toNat)
  | _, _ => false

/-- A host read of word k of a region is forbidden: a pending command writes it (20_memory.md R133). -/
def State.readHazard (s : State) (r : Region) (k : Nat) : Bool :=
  (pendingHeads 0 s.cmdFifo).any (fun w => ownsWrite w r k)

/-- A host write of word k of a region is forbidden: a pending command reads or writes it (20_memory.md R133). -/
def State.writeHazard (s : State) (r : Region) (k : Nat) : Bool :=
  (pendingHeads 0 s.cmdFifo).any (fun w => ownsRead w r k || ownsWrite w r k)

/-! ### The window map -/

/-- What an aligned word address of the host window names (20_memory.md R121, 10_state.md R42). -/
inductive HostLoc where
  /-- word k of the host register block, k = 0..13 -/
  | reg (k : Nat)
  /-- word k of a sample or vector region -/
  | word (r : Region) (k : Nat)
  | unmapped
  deriving DecidableEq, Repr

/-- The region whose 0x4000-byte span holds an address at or above 0x10000 (20_memory.md R121). -/
def regionAt (a : Nat) : Option Region :=
  match a / 0x4000 with
  | 4 => some .inL
  | 5 => some .inR
  | 6 => some .outL
  | 7 => some .outR
  | 8 => some .vec
  | _ => none

/-- The host window map (20_memory.md R121). -/
def locate (a : Nat) : HostLoc :=
  if a < 0x38 then .reg (a / 4)
  else
    match regionAt a with
    | none => .unmapped
    | some r => if (a - r.base) / 4 < r.words then .word r ((a - r.base) / 4) else .unmapped

/-- Where an access of this width at this address goes: nowhere if it is a bus error (20_memory.md R123, R124). -/
def busTarget (width : Width) (addr : BitVec 18) : HostLoc :=
  if width = .word ∧ addr.toNat % 4 = 0 then locate addr.toNat else .unmapped

/-! ### CTRL -/

/-- The soft reset: the whole reset sequence, the memory contents kept; the IN words count as not written
(10_state.md R45, 70_reset_and_hazards.md R600). The turns to come, the words read and the draws go on
(assumption log 10). -/
def State.softReset (T : Transc) (s : State) : State :=
  { State.resetWith T with mem := s.mem, script := s.script, hostReads := s.hostReads, draws := s.draws }

/-- CMDFLUSH; emptying a non-empty FIFO sets IP.IDLE, and CP stays (10_state.md R45, R46). -/
def State.flushCmd (s : State) : State :=
  if s.cmdFifo.isEmpty then s else State.raiseIrq { s with cmdFifo := [] } .idle

/-- RSPFLUSH (10_state.md R45). -/
def State.flushRsp (s : State) : State := { s with rspFifo := [] }

/-- CMDFLUSH together with ERRCLR: the recovery from a dropped word, of a host that has checked IP.CMDOVF
(70_reset_and_hazards.md R621, 60_exceptions.md R546; assumption log 12). -/
def State.recoverCmd (s : State) : State := if s.cmdLoss = .seen then { s with cmdLoss := .none } else s

/-- A write to CTRL: SRST alone, or CMDFLUSH, RSPFLUSH, ERRCLR in this order (10_state.md R45). -/
def State.writeCtrl (T : Transc) (s : State) (w : Word) : State :=
  if w.getLsbD 0 then s.softReset T
  else
    let s1 := if w.getLsbD 2 then s.flushCmd else s
    let s2 := if w.getLsbD 3 then s1.flushRsp else s1
    let s3 := if w.getLsbD 1 then s2.clearError else s2
    if w.getLsbD 1 && w.getLsbD 2 then s3.recoverCmd else s3

/-- A write to CMD: append the word, or drop it and set IP.CMDOVF (10_state.md R49); the drop is noted until the host
has checked and recovered (70_reset_and_hazards.md R621). -/
def State.pushCmd (s : State) (w : Word) : State :=
  if s.cmdLevel < Config.cmdDepth then { s with cmdFifo := s.cmdFifo ++ [w] }
  else State.raiseIrq { s with cmdLoss := .unseen } .cmdOvf

/-- A write to word k of the host register block; a read-only register ignores it (10_state.md R42). -/
def State.writeHostReg (T : Transc) (s : State) (k : Nat) (w : Word) : State :=
  match k with
  | 3 => s.writeCtrl T w
  | 4 => { s with ie := w.extractLsb' 0 6 }
  | 5 => s.ackIrq w
  | 6 => s.pushCmd w
  | _ => s

/-- Return a word to the host. -/
def State.answer (s : State) (v : Word) : State := { s with hostReads := s.hostReads ++ [v] }

/-- Return a free value to the host (10_state.md R71; assumption log 5). -/
def State.drawWord (s : State) : State := State.answer { s with draws := s.draws + 1 } (Config.draw s.draws)

/-- A CMD word is lost and the host has not recovered (70_reset_and_hazards.md R621). -/
def State.cmdLost (s : State) : Bool := s.cmdLoss != .none

/-- Return a result of the command stream to the host: unconstrained after a dropped word, until the host recovers
(70_reset_and_hazards.md R621, 93_implementation_defined.md I19; assumption log 12). -/
def State.answerResult (s : State) (v : Word) : State := if s.cmdLost then s.drawWord else s.answer v

/-- Return a word of which the bits of `mask` are results of the command stream, unconstrained as in
`State.answerResult`, and the other bits are not. -/
def State.answerBits (s : State) (mask v : Word) : State :=
  if s.cmdLost then
    State.answer { s with draws := s.draws + 1 } ((v &&& ~~~mask) ||| (Config.draw s.draws &&& mask))
  else s.answer v

/-- A read of IP that shows CMDOVF is the check R621 asks of the host (70_reset_and_hazards.md R621). -/
def State.noteCheck (s : State) : State :=
  if s.cmdLoss = .unseen ∧ s.pending .cmdOvf then { s with cmdLoss := .seen } else s

/-- A read of IP (10_state.md R46). SYNC, ERR, IDLE and RSPUNF follow the command stream; CMDOVF and BUSERR do not. -/
def State.readIp (s : State) : State := s.noteCheck.answerBits 0x17 (s.ip.setWidth 32)

/-- A read of RSP: pop the oldest word, or 0 and IP.RSPUNF (10_state.md R49); after a dropped word either word is open. -/
def State.popRsp (s : State) : State :=
  match s.rspFifo with
  | [] => (s.raiseIrq .rspUnf).answerResult 0
  | v :: rest => State.answerResult { s with rspFifo := rest } v

/-- A read of word k of the host register block; a write-only register reads 0 (10_state.md R42, R43). All but the
constants and IE depend on the command stream (70_reset_and_hazards.md R621). -/
def State.readHostReg (s : State) (k : Nat) : State :=
  match k with
  | 0 => s.answer 0x43534331
  | 1 => s.answer 0x00010000
  | 2 => s.answerBits 0x7F s.status
  | 4 => s.answer (s.ie.setWidth 32)
  | 5 => s.readIp
  | 7 => s.popRsp
  | 8 => s.answerResult s.errCauseWord
  | 9 => s.answerResult s.errCmd
  | 10 => s.answerResult s.errCp
  | 11 => s.answerResult s.cp
  | 12 => s.answerResult (BitVec.ofNat 32 s.cmdLevel)
  | 13 => s.answerResult (BitVec.ofNat 32 s.rspLevel)
  | _ => s.answer 0

/-! ### Sample and vector words -/

/-- The word a host read of a sample or vector word returns, if a step determines it: the last one stored
(20_memory.md R136), but of an OUT or VEC word only if the core has written it since the last reset (10_state.md R71)
and no command word is lost (70_reset_and_hazards.md R621; assumption logs 7 and 12). -/
def State.hostWord (s : State) (r : Region) (k : Nat) : Option Word :=
  if r.isInput || (s.written.contains (r.addr k) && !s.cmdLost) then s.mem.readWord (r.addr k) else none

/-- A host read of word k of a region (10_state.md R71, 20_memory.md R133). -/
def State.readSample (s : State) (r : Region) (k : Nat) : Result State :=
  if s.readHazard r k then .fault .hazard
  else
    match s.hostWord r k with
    | some w => .next (s.answer w)
    | none => .next s.drawWord

/-- A host write of word k of a region (20_memory.md R125, R133): an IN word then counts as written, an OUT or VEC word
only counts when the core writes it (10_state.md R71). -/
def State.writeSample (s : State) (r : Region) (k : Nat) (w : Word) : Result State :=
  if s.writeHazard r k then .fault .hazard
  else .next (if r.isInput then s.storeWord (r.addr k) w else s.pokeWord (r.addr k) w)

/-- One host access (20_memory.md R123-R126). -/
def hostAccess (T : Transc) (a : HostAccess) (s : State) : Result State :=
  match a with
  | .read width addr =>
    match busTarget width addr with
    | .reg k => .next (s.readHostReg k)
    | .word r k => s.readSample r k
    | .unmapped => .next ((s.raiseIrq .busErr).answer 0)
  | .write width addr w =>
    match busTarget width addr with
    | .reg k => .next (s.writeHostReg T k w)
    | .word r k => s.writeSample r k w
    | .unmapped => .next (s.raiseIrq .busErr)

end Sys2Proof.Machine
end

