-- ==== Sys2Proof/Machine/Step.lean ====
section
/-!
DEFINITION. The step of CSC-1: one turn of the interleaving of its two agents (20_memory.md R129).
-/

namespace Sys2Proof.Machine

/-- The core's turn: nothing while it cannot step, the error path of an illegal opcode (60_exceptions.md R542), or the
command at the head of the FIFO. -/
def coreStep (s : State) : Host.Outcome State Fault Refusal :=
  match s.fetch with
  | .idle => .next s
  | .illegal w => .next (s.raiseError .illegalOp w 1)
  | .run i => exec i s

/-- One step: the next turn of the script, or the core's turn when the script is empty (20_memory.md R129). -/
def step (s : State) : Host.Outcome State Fault Refusal :=
  match s.script with
  | [] => coreStep s
  | .core :: rest => coreStep { s with script := rest }
  | .host a :: rest => hostAccess Config.transc a { s with script := rest }

/-- `s` with the command of a table word at the head of the command FIFO and the core about to take it: its words
overwrite the head words, it is the core's turn, the core is not halted, and a full response FIFO is emptied. It stands
for the host's pushes through CMD (assumption log 8). -/
def State.withFetchWord (s : State) (nbits w : Nat) : State :=
  { s with cmdFifo := tableWords nbits w ++ s.cmdFifo.drop 3, halt := false, script := [],
           rspFifo := if s.rspFull then [] else s.rspFifo }

end Sys2Proof.Machine
end

