-- ==== Sys2Proof/Machine/Reference.lean ====
section
/-!
DEFINITION. The reference instance of TRANSC (00_scope.md R16): "evaluates the real function exactly and rounds it
once to nearest binary32". The real value is computed in fixed point with 640 fraction bits and rounded by
`F32.round`. No meaning of an instruction uses this file: the core takes `Config.transc`, of which nothing is assumed;
the reference instance serves statements and tests of the spec's vectors marked TRANSC. Assumption log 2.
-/

namespace Sys2Proof

/-- Fraction bits of the fixed-point values. -/
def fixBits : Nat := 640
/-- 1 in fixed point. -/
def fixOne : Int := ((2 ^ fixBits : Nat) : Int)
/-- π in fixed point. -/
def fixPi : Int := 0x3243f6a8885a308d313198a2e03707344a4093822299f31d0082efa98ec4e6c89452821e638d01377be5466cf34e90c6cc0ac29b7c97c50dd3f84d5b5b54709179216d5d98979fb1bd1310ba698dfb5ac
/-- ln 2 in fixed point. -/
def fixLn2 : Int := 0xb17217f7d1cf79abc9e3b39803f2f6af40f343267298b62d8a0d175b8baafa2be7b876206debac98559552fb4afa1b10ed2eae35c138214427573b291169b8253e96ca16224ae8c51acbda11317c387e
/-- ln 10 in fixed point. -/
def fixLn10 : Int := 0x24d763776aaa2b05ba95b58ae0b4c28a38a3fb3e76977e43a0f187a0807c0b5ca58bc0b5ec6a0417331c32f00b17c35a0b1889061042f8b6bee3de2100b945b59e0b3e28a2a324479d96a9b0ec360c7ef

/-- A finite binary32 value in fixed point, exactly. -/
def F32.toFix (x : F32) : Int := x.val * ((2 ^ (fixBits - 149) : Nat) : Int)
/-- The nearest binary32 to `v · 2^-k`, v in fixed point. -/
def F32.ofFix (v : Int) (k : Nat) : F32 := F32.round (decide (v < 0)) v.natAbs (fixBits - 149 + k)
/-- The product of two fixed-point values. -/
def fixMul (a b : Int) : Int := a * b / fixOne

/-- The Taylor sum of the terms `t, -t·r²/((k+1)(k+2)), …` (sine from t = r, k = 1; cosine from t = 1, k = 0). -/
def fixTrig (r2 : Int) : Nat → Nat → Int → Int → Int
  | 0, _, _, sum => sum
  | fuel + 1, k, t, sum =>
    fixTrig r2 fuel (k + 2) (-(fixMul t r2) / (((k + 1) * (k + 2) : Nat) : Int)) (sum + t)

/-- The Taylor sum of `t, t·r/(k+1), …` (the exponential from t = 1, k = 0). -/
def fixExpSum (r : Int) : Nat → Nat → Int → Int → Int
  | 0, _, _, sum => sum
  | fuel + 1, k, t, sum => fixExpSum r fuel (k + 1) (fixMul t r / ((k + 1 : Nat) : Int)) (sum + t)

/-- The quadrant of x (nearest multiple of π/2) and the rest. -/
def fixQuadrant (x : Int) : Int × Int :=
  let q := (4 * x + fixPi) / (2 * fixPi)
  (q, x - q * fixPi / 2)

/-- sin in fixed point. -/
def fixSin (x : Int) : Int :=
  let (q, r) := fixQuadrant x
  let s := fixTrig (fixMul r r) 60 1 r 0
  let c := fixTrig (fixMul r r) 60 0 fixOne 0
  match (q % 4).toNat with
  | 0 => s
  | 1 => c
  | 2 => -s
  | _ => -c

/-- cos in fixed point. -/
def fixCos (x : Int) : Int :=
  let (q, r) := fixQuadrant x
  let s := fixTrig (fixMul r r) 60 1 r 0
  let c := fixTrig (fixMul r r) 60 0 fixOne 0
  match (q % 4).toNat with
  | 0 => c
  | 1 => -s
  | 2 => -c
  | _ => s

/-- e^x rounded to binary32, x in fixed point and between -110 and 110. -/
def refExpFix (x : Int) : F32 :=
  let k := (2 * x + fixLn2) / (2 * fixLn2)
  let v := fixExpSum (x - k * fixLn2) 120 0 fixOne 0
  match k with
  | .ofNat n => F32.ofFix (v * ((2 ^ n : Nat) : Int)) 0
  | .negSucc n => F32.ofFix v (n + 1)

/-- sin32 of the reference instance; a zero keeps its sign, an infinity has no sine. -/
def refSin (x : F32) : F32 :=
  if x.isFinite then (if x.isZero then x else F32.ofFix (fixSin x.toFix) 0) else F32.nan
/-- cos32 of the reference instance. -/
def refCos (x : F32) : F32 :=
  if x.isFinite then F32.ofFix (fixCos x.toFix) 0 else F32.nan
/-- tan32 of the reference instance; a zero keeps its sign. -/
def refTan (x : F32) : F32 :=
  if x.isFinite then
    (if x.isZero then x else F32.ofFix (fixSin x.toFix * fixOne / fixCos x.toFix) 0)
  else F32.nan
/-- exp32 of the reference instance; above 89 it overflows, below -104 it rounds to +0. -/
def refExp (x : F32) : F32 :=
  if x.isNaN then F32.nan
  else if F32.ge x ⟨0x42B20000⟩ then F32.inf
  else if F32.ge ⟨0xC2D00000⟩ x then F32.zero
  else refExpFix x.toFix
/-- exp10_32 of the reference instance; above 39 it overflows, below -46 it rounds to +0. -/
def refExp10 (x : F32) : F32 :=
  if x.isNaN then F32.nan
  else if F32.ge x ⟨0x421C0000⟩ then F32.inf
  else if F32.ge ⟨0xC2380000⟩ x then F32.zero
  else refExpFix (fixMul x.toFix fixLn10)

/-- The reference instance of TRANSC (00_scope.md R16). -/
def Transc.reference : Transc where
  sin32 := refSin
  cos32 := refCos
  tan32 := refTan
  exp32 := refExp
  exp10 := refExp10

end Sys2Proof
end

