-- ==== Sys2Proof/Safety.lean ====
section
/-!
DEFINITION. What counts as a safe state and a safe run: the well-formedness of the plain data of State, and the
invariants that claims use as premises. Each names the rule of spec/ that gives its bounds.
-/

namespace Sys2Proof.Machine

/-- The two FIFOs hold at most their depth (10_state.md R49). -/
def State.fifosBounded (s : State) : Bool :=
  decide (s.cmdFifo.length ≤ Config.cmdDepth) && decide (s.rspFifo.length ≤ Config.rspDepth)

/-- The memory and the written set keep their canonical forms. -/
def State.memWf (s : State) : Bool := s.mem.wf && risingFrom none s.written

/-- HALT is set exactly while an error is recorded, and a cleared record is all zero (10_state.md R45, R47;
60_exceptions.md R545). -/
def State.errorRecord (s : State) : Bool :=
  match s.errCause with
  | none => !s.halt && s.errCmd == 0 && s.errCp == 0
  | some _ => s.halt

/-- Every stored global register is legal for its type (10_state.md R50). -/
def GlobRegs.legal (g : GlobRegs) : Bool :=
  [GReg.fs, .inputMix, .interpEn].all (fun r => r.type.legal (g.get r))

/-- Every per-channel register, in SEL order (10_state.md R53). -/
def allCRegs : List CReg :=
  [.bqxType, .bqxHz, .bqxDb, .bqxQ, .lowcutEn, .highcutEn, .lowcutHz, .highcutHz, .dryOut, .earlyOut, .lateOut,
   .tapEn, .tapCount, .tapDecay, .tapPredelayMs, .tapLengthMs, .edifEn, .edifCount, .edifDelayMs, .edifFeedback,
   .edifModAmtMs, .edifModRateHz, .edifModEn, .lateTapPost, .lateLineCount, .lateDifEn, .lateDifCount,
   .lateLineSizeMs, .lateLineModAmtMs, .lateDifDelayMs, .lateDifModAmtMs, .lateLineDecayS, .lateLineModRateHz,
   .lateDifFeedback, .lateDifModRateHz, .lateDifModEn, .eqLshEn, .eqHshEn, .eqLpEn, .eqLshHz, .eqHshHz, .eqLpHz,
   .eqLshDb, .eqHshDb, .crossSeed, .seedTap, .seedDiffusion, .seedDelay, .seedPostdiffusion]

/-- Every stored per-channel register is legal for its type (10_state.md R50). -/
def ChanRegs.legal (r : ChanRegs) : Bool := allCRegs.all (fun c => c.type.legal (r.get c))

/-- Every stored control register is legal for its type: "a read always returns a legal stored value"
(10_state.md R50). -/
def State.regsLegal (s : State) : Bool := s.glob.legal && s.chL.regs.legal && s.chR.regs.legal

/-- No line's feedback coefficient is 1 or more (44_fdn_channel.md R392, R402). -/
def Channel.gainsBelowOne (c : Channel) : Bool := c.lines.all (fun l => !F32.ge l.gain F32.one)

/-- No line's feedback coefficient is 1 or more, in either channel (44_fdn_channel.md R402). -/
def State.gainsBelowOne (s : State) : Bool := s.chL.gainsBelowOne && s.chR.gainsBelowOne

/-- The ranges of a tap whose buffer has n cells (10_state.md R63, 42_allpass_delay.md R300, R301). -/
def Tap.inRange (n : Nat) (t : Tap) : Bool :=
  decide (t.widx < n) && decide (1 ≤ t.sd) && decide (t.sd ≤ n - 2) && decide (t.counter ≤ 8) &&
    decide (1 ≤ t.da) && decide (t.da ≤ n - 2) && decide (t.db = t.da + 1)

/-- The ranges of a diffuser's stages. -/
def Diff.inRange (d : Diff) : Bool := d.stages.all (fun u => u.tap.inRange Config.nAp)

/-- The ranges of a line's FIFO (10_state.md R67) and of its taps. -/
def Line.inRange (l : Line) : Bool :=
  decide (l.fb.rd < Config.fbCap) && decide (l.fb.level ≤ Config.fbCap) && l.mdly.inRange Config.nMd && l.dif.inRange

/-- The ranges of the pointers, delays and counters of a channel (10_state.md R63-R67). -/
def Channel.inRange (c : Channel) : Bool :=
  c.pre.inRange Config.nMd && decide (c.mt.widx < Config.nMt) && c.ed.inRange && c.lines.all Line.inRange

/-- The ranges of the pointers, delays and counters of both channels. -/
def State.inRange (s : State) : Bool := s.chL.inRange && s.chR.inRange

/-- A step is safe: it stops with no fault and no refusal. -/
def stepSafe (s : State) : Bool :=
  match step s with
  | .next _ => true
  | .fault _ => false
  | .refused _ => false

/-! ### The words of the claims, written from the spec's rules and not from the meanings -/

/-- The length of a command in words (30_encoding.md R163). -/
def wordsOf : Instr → Nat
  | .nop _ _ _ => 1
  | .sync _ _ _ => 1
  | .wreg _ _ _ _ => 2
  | .rreg _ _ _ => 1
  | .setfs _ _ _ _ => 2
  | .clear _ _ _ => 1
  | .proc _ _ _ => 1
  | .rngseed _ _ _ _ => 2
  | .rngu _ _ _ => 1
  | .rngi _ _ _ => 1
  | .rngf _ _ _ => 1
  | .rngb _ _ _ => 1
  | .vgen _ _ _ _ => 2
  | .vgenx _ _ _ _ _ => 3
  | .bqresp _ _ _ _ => 2
  | .uproc _ _ _ => 1
  | .rder _ _ _ => 1
  | .wder _ _ _ _ => 2

/-- The commands that push a response (45_control.md R451). -/
def responds : Instr → Bool
  | .nop _ _ _ => false
  | .sync _ _ _ => true
  | .wreg _ _ _ _ => false
  | .rreg _ _ _ => true
  | .setfs _ _ _ _ => false
  | .clear _ _ _ => false
  | .proc _ _ _ => false
  | .rngseed _ _ _ _ => false
  | .rngu _ _ _ => true
  | .rngi _ _ _ => true
  | .rngf _ _ _ => true
  | .rngb _ _ _ => true
  | .vgen _ _ _ _ => false
  | .vgenx _ _ _ _ _ => false
  | .bqresp _ _ _ _ => true
  | .uproc _ _ _ => false
  | .rder _ _ _ => true
  | .wder _ _ _ _ => false

/-- The commands that store sample or vector words (10_state.md R71). -/
def stores : Instr → Bool
  | .nop _ _ _ => false
  | .sync _ _ _ => false
  | .wreg _ _ _ _ => false
  | .rreg _ _ _ => false
  | .setfs _ _ _ _ => false
  | .clear _ _ _ => false
  | .proc _ _ _ => true
  | .rngseed _ _ _ _ => false
  | .rngu _ _ _ => false
  | .rngi _ _ _ => false
  | .rngf _ _ _ => false
  | .rngb _ _ _ => false
  | .vgen _ _ _ _ => true
  | .vgenx _ _ _ _ _ => true
  | .bqresp _ _ _ _ => false
  | .uproc _ _ _ => true
  | .rder _ _ _ => false
  | .wder _ _ _ _ => false

/-- The first word of a command (60_exceptions.md R545). -/
def headOf (i : Instr) : Word := (encode i).headD 0

/-- `s` after a command of len words, with only `rest` left in the command FIFO: CP counts its words, and IP.IDLE is set
if none is left (10_state.md R46, R48, R49). -/
def State.completed (s : State) (len : Nat) (rest : List Word) : State :=
  { s with cmdFifo := rest, cp := s.cp + BitVec.ofNat 32 len, ip := if rest = [] then s.ip ||| 0b000100 else s.ip }

/-- `s` after the error path of 60_exceptions.md R545, with only `rest` left in the command FIFO. -/
def State.errored (s : State) (c : Cause) (cmd : Word) (len : Nat) (rest : List Word) : State :=
  { s with
    errCause := some c, errCmd := cmd, errCp := s.cp, halt := true
    cmdFifo := rest, cp := s.cp + BitVec.ofNat 32 len
    ip := if rest = [] then s.ip ||| 0b000110 else s.ip ||| 0b000010 }

/-- The command takes the error path with this cause in every state that holds its words, once there is room for the
response it would push (60_exceptions.md R540, R545). -/
def Refuses (i : Instr) (c : Cause) : Prop :=
  ∀ (s : State) (rest : List Word), s.cmdFifo = encode i ++ rest → (responds i = true → s.rspFifo.length < 64) →
    exec i s = .next (s.errored c (headOf i) (wordsOf i) rest)

/-- The command makes no step while the response FIFO is full (45_control.md R451). -/
def Stalls (i : Instr) : Prop := ∀ s : State, s.rspFifo.length = 64 → exec i s = .next s

/-- `s` with each channel the mask selects replaced by f of it (30_encoding.md R162). -/
def State.mapped (s : State) (mask : BitVec 2) (f : Chan → Channel → Channel) : State :=
  { s with chL := if mask.getLsbD 0 then f .L s.chL else s.chL
           chR := if mask.getLsbD 1 then f .R s.chR else s.chR }

/-- The number of a unit (46_diagnostic.md R500). -/
def unitNumber : UnitRef → Nat
  | .onePole .hpc => 0x000
  | .onePole .lpc => 0x001
  | .mdly .pre => 0x002
  | .mt => 0x003
  | .diff .ed => 0x004
  | .biquad .bqx => 0x005
  | .chan => 0x006
  | .apf .ed s => 0x010 + s
  | .line l => 0x100 + 16 * l
  | .mdly (.line l) => 0x101 + 16 * l
  | .diff (.line l) => 0x102 + 16 * l
  | .biquad (.lsh l) => 0x103 + 16 * l
  | .biquad (.hsh l) => 0x104 + 16 * l
  | .onePole (.damp l) => 0x105 + 16 * l
  | .apf (.line l) s => 0x800 + 16 * l + s

/-- The condition under which a cause applies to a command, each taken alone (60_exceptions.md R541, by the rules of
the commands). ILLEGAL_OP applies to no command. -/
def applies (i : Instr) : Cause → Prop
  | .illegalOp => False
  | .reserved =>
    match i with
    | .nop ch sel n => ch ≠ 0 ∨ sel ≠ 0 ∨ n ≠ 0
    | .sync ch sel _ => ch ≠ 0 ∨ sel ≠ 0
    | .wreg _ _ n _ => n ≠ 0
    | .rreg _ _ n => n ≠ 0
    | .setfs ch sel n _ => ch ≠ 0 ∨ sel ≠ 0 ∨ n ≠ 0
    | .clear _ _ n => n ≠ 0
    | .proc ch sel _ => ch ≠ 0 ∨ sel ≠ 0
    | .rngseed ch sel n _ => ch ≠ 0 ∨ sel ≠ 0 ∨ n ≠ 0
    | .rngu ch sel n => ch ≠ 0 ∨ sel ≠ 0 ∨ n ≠ 0
    | .rngi ch sel n => ch ≠ 0 ∨ sel ≠ 0 ∨ n ≠ 0
    | .rngf ch sel n => ch ≠ 0 ∨ sel ≠ 0 ∨ n ≠ 0
    | .rngb ch sel n => ch ≠ 0 ∨ sel ≠ 0 ∨ n ≠ 0
    | .vgen ch sel _ _ => ch ≠ 0 ∨ sel ≠ 0
    | .vgenx ch sel _ _ _ => ch ≠ 0 ∨ sel ≠ 0
    | .bqresp _ _ n _ => n ≠ 0
    | .uproc _ _ _ => False
    | .rder _ _ _ => False
    | .wder _ _ _ _ => False
  | .badCh =>
    match i with
    | .wreg ch _ _ _ => ch = 0b00
    | .rreg ch _ _ => ch = 0b00 ∨ ch = 0b11
    | .clear ch _ _ => ch = 0b00
    | .bqresp ch _ _ _ => ch = 0b00 ∨ ch = 0b11
    | .uproc ch _ _ => ch = 0b00 ∨ ch = 0b11
    | .rder ch sel _ => (sel = 0xF00 ∧ ch ≠ 0b00) ∨ (sel ≠ 0xF00 ∧ (ch = 0b00 ∨ ch = 0b11))
    | .wder ch sel _ _ => (sel = 0xF00 ∧ ch ≠ 0b00) ∨ (sel ≠ 0xF00 ∧ ch = 0b00)
    | _ => False
  | .badSel =>
    match i with
    | .wreg _ sel _ _ => Reg.ofSel sel = none ∨ sel = 0x000
    | .rreg _ sel _ => Reg.ofSel sel = none
    | .clear _ sel _ => UnitRef.ofSel sel = none
    | .bqresp _ sel _ _ => ∀ u, UnitRef.ofSel sel ≠ some (.biquad u)
    | .uproc _ sel _ => UnitRef.ofSel sel = none
    | .rder _ sel _ => sel ≠ 0xF00 ∧ UnitRef.ofSel sel = none
    | .wder _ sel _ _ => sel ≠ 0xF00 ∧ UnitRef.ofSel sel = none
    | _ => False
  | .badN =>
    match i with
    | .proc _ _ n => n.toNat = 0 ∨ 1024 < n.toNat
    | .vgen _ _ n _ => n.toNat = 0 ∨ 1024 < n.toNat
    | .vgenx _ _ n _ _ => n.toNat = 0 ∨ 1024 < n.toNat
    | .uproc _ _ n => n.toNat = 0 ∨ 1024 < n.toNat
    | _ => False
  | .badField =>
    match i with
    | .rder _ sel n => (sel = 0xF00 ∧ n ≠ 0) ∨ ∃ u, UnitRef.ofSel sel = some u ∧ FieldRef.ofN u n = none
    | .wder _ sel n _ =>
      (sel = 0xF00 ∧ n ≠ 0) ∨ ∃ u, UnitRef.ofSel sel = some u ∧
        (FieldRef.ofN u n = none ∨ ∃ f, FieldRef.ofN u n = some f ∧ f.writeType = .readOnly)
    | _ => False
  | .badValue =>
    match i with
    | .wreg _ sel _ v =>
      (∃ r lo hi, Reg.ofSel sel = some r ∧ r.type = .float lo hi ∧ F32.isNaN ⟨v⟩ = true) ∨
        ∃ r hi, Reg.ofSel sel = some r ∧ r.type = .enum hi ∧ hi < v.toNat
    | .setfs _ _ _ v => F32.isNaN ⟨v⟩ = true
    | .vgenx _ _ _ _ v => F32.isNaN ⟨v⟩ = true
    | .bqresp _ _ _ v => F32.isNaN ⟨v⟩ = true
    | .wder _ sel n v =>
      F32.isNaN ⟨v⟩ = true ∧ ∃ u f, UnitRef.ofSel sel = some u ∧ FieldRef.ofN u n = some f ∧
        (f.writeType = .anyFloat ∨ ∃ lo hi, f.writeType = .float lo hi)
    | _ => False

/-- The errors a command can raise (60_exceptions.md R544). -/
def errorsOf : Instr → List Cause
  | .nop _ _ _ => [.reserved]
  | .sync _ _ _ => [.reserved]
  | .wreg _ _ _ _ => [.reserved, .badCh, .badSel, .badValue]
  | .rreg _ _ _ => [.reserved, .badCh, .badSel]
  | .setfs _ _ _ _ => [.reserved, .badValue]
  | .clear _ _ _ => [.reserved, .badCh, .badSel]
  | .proc _ _ _ => [.reserved, .badN]
  | .rngseed _ _ _ _ => [.reserved]
  | .rngu _ _ _ => [.reserved]
  | .rngi _ _ _ => [.reserved]
  | .rngf _ _ _ => [.reserved]
  | .rngb _ _ _ => [.reserved]
  | .vgen _ _ _ _ => [.reserved, .badN]
  | .vgenx _ _ _ _ _ => [.reserved, .badN, .badValue]
  | .bqresp _ _ _ _ => [.reserved, .badCh, .badSel, .badValue]
  | .uproc _ _ _ => [.badCh, .badSel, .badN]
  | .rder _ _ _ => [.badCh, .badSel, .badField]
  | .wder _ _ _ _ => [.badCh, .badSel, .badField, .badValue]

/-- The unit a field belongs to (46_diagnostic.md R501). -/
def FieldRef.unit : FieldRef → UnitRef
  | .onePole u _ => .onePole u
  | .biquad u _ => .biquad u
  | .apf d s _ => .apf d s
  | .mdly u _ => .mdly u
  | .diff u _ => .diff u
  | .mt _ => .mt
  | .line l _ => .line l
  | .chan _ => .chan

/-- A field that holds a sample history: what a clear sets to +0 (45_control.md R462). -/
def FieldRef.history : FieldRef → Bool
  | .onePole _ .y => true
  | .biquad _ .x1 => true
  | .biquad _ .x2 => true
  | .biquad _ .y1 => true
  | .biquad _ .y2 => true
  | _ => false

/-- Whether a clear of unit u clears unit v: itself, a line's filters, or everything (45_control.md R462). -/
def UnitRef.covers (u v : UnitRef) : Bool :=
  u == v ||
    match u, v with
    | .chan, _ => true
    | .line l, .biquad (.lsh k) => l == k
    | .line l, .biquad (.hsh k) => l == k
    | .line l, .onePole (.damp k) => l == k
    | _, _ => false

/-- Whether a clear of unit u empties the sample buffer of v, or the FIFO cells of a line v: v itself, or the diffuser, the
line or the channel it is part of (45_control.md R462). -/
def UnitRef.empties (u v : UnitRef) : Bool :=
  u == v ||
    match u, v with
    | .chan, _ => true
    | .diff d, .apf e _ => d == e
    | .line l, .apf (.line k) _ => l == k
    | .line l, .mdly (.line k) => l == k
    | _, _ => false

/-- The sample buffers and FIFO cells of a unit, in a fixed order (45_control.md R462). -/
def Channel.buffers (c : Channel) : UnitRef → List Buf
  | .onePole _ => []
  | .biquad _ => []
  | .apf d s => [(c.apf d s).tap.buf]
  | .mdly r => [(c.mdly r).buf]
  | .diff r => (firstTwelve 12).map (fun s => (c.apf r s).tap.buf)
  | .mt => [c.mt.buf]
  | .line l =>
    (c.lines.get l).fb.cells :: (c.lines.get l).mdly.buf :: (firstTwelve 12).map (fun s => (c.apf (.line l) s).tap.buf)
  | .chan =>
    c.pre.buf :: c.mt.buf :: (firstTwelve 12).map (fun s => (c.apf .ed s).tap.buf) ++
      (firstTwelve 12).flatMap (fun l =>
        (c.lines.get l).fb.cells :: (c.lines.get l).mdly.buf ::
          (firstTwelve 12).map (fun s => (c.apf (.line l) s).tap.buf))

/-- What an enable register's change does to a channel whose register is already written (45_control.md R457). -/
def enableCleared (r : CReg) (c : Channel) : Channel :=
  match r with
  | .lowcutEn => { c with hpc := { c.hpc with y := F32.zero } }
  | .highcutEn => { c with lpc := { c.lpc with y := F32.zero } }
  | .tapEn => { c with mt := { c.mt with buf := [] } }
  | .edifEn => { c with ed := { c.ed with stages := c.ed.stages.map (fun u => { u with tap := { u.tap with buf := [] } }) } }
  | .lateDifEn =>
    { c with lines := c.lines.map (fun l => { l with dif := { l.dif with
      stages := l.dif.stages.map (fun u => { u with tap := { u.tap with buf := [] } }) } }) }
  | .eqLshEn =>
    { c with lines := c.lines.map (fun l => { l with lsh := { l.lsh with
      x1 := F32.zero, x2 := F32.zero, y1 := F32.zero, y2 := F32.zero } }) }
  | .eqHshEn =>
    { c with lines := c.lines.map (fun l => { l with hsh := { l.hsh with
      x1 := F32.zero, x2 := F32.zero, y1 := F32.zero, y2 := F32.zero } }) }
  | .eqLpEn => { c with lines := c.lines.map (fun l => { l with damp := { l.damp with y := F32.zero } }) }
  | _ => c

/-- The eight enable registers (45_control.md R457). -/
def enableRegs : List CReg :=
  [.lowcutEn, .highcutEn, .tapEn, .edifEn, .lateDifEn, .eqLshEn, .eqHshEn, .eqLpEn]

/-- The SEL number, type and range of every control register (10_state.md R53). -/
def regTypes : List (Nat × RegType) :=
  [(0x000, .float ⟨0x45FA0000⟩ ⟨0x483B8000⟩), (0x001, .float ⟨0x00000000⟩ ⟨0x3F800000⟩), (0x002, .bool),
   (0x004, .enum 8), (0x005, .float ⟨0x00000000⟩ ⟨0x49742400⟩), (0x006, .float ⟨0xC47A0000⟩ ⟨0x447A0000⟩),
   (0x007, .float ⟨0x00000000⟩ ⟨0x447A0000⟩), (0x010, .bool), (0x011, .bool),
   (0x012, .float ⟨0x00000000⟩ ⟨0x49742400⟩), (0x013, .float ⟨0x00000000⟩ ⟨0x49742400⟩),
   (0x014, .float ⟨0x00000000⟩ ⟨0x3F800000⟩), (0x015, .float ⟨0x00000000⟩ ⟨0x3F800000⟩),
   (0x016, .float ⟨0x00000000⟩ ⟨0x3F800000⟩), (0x018, .bool), (0x019, .unsigned 1 256),
   (0x01A, .float ⟨0x00000000⟩ ⟨0x3F800000⟩), (0x01B, .float ⟨0x00000000⟩ ⟨0x49742400⟩)] ++
  [(0x01C, .float ⟨0x00000000⟩ ⟨0x49742400⟩), (0x020, .bool), (0x021, .unsigned 1 12),
   (0x022, .float ⟨0x00000000⟩ ⟨0x49742400⟩), (0x023, .float ⟨0x00000000⟩ ⟨0x3F7FBE77⟩),
   (0x024, .float ⟨0x00000000⟩ ⟨0x49742400⟩), (0x025, .float ⟨0x00000000⟩ ⟨0x461C4000⟩), (0x026, .bool),
   (0x028, .bool), (0x029, .unsigned 1 12), (0x02A, .bool), (0x02B, .unsigned 1 12),
   (0x02C, .float ⟨0x00000000⟩ ⟨0x49742400⟩), (0x02D, .float ⟨0x00000000⟩ ⟨0x49742400⟩),
   (0x02E, .float ⟨0x00000000⟩ ⟨0x49742400⟩), (0x02F, .float ⟨0x00000000⟩ ⟨0x49742400⟩),
   (0x030, .float ⟨0x00000000⟩ ⟨0x49742400⟩)] ++
  [(0x031, .float ⟨0x00000000⟩ ⟨0x461C4000⟩), (0x032, .float ⟨0x00000000⟩ ⟨0x3F7FBE77⟩),
   (0x033, .float ⟨0x00000000⟩ ⟨0x461C4000⟩), (0x034, .bool), (0x038, .bool), (0x039, .bool), (0x03A, .bool),
   (0x03B, .float ⟨0x00000000⟩ ⟨0x49742400⟩), (0x03C, .float ⟨0x00000000⟩ ⟨0x49742400⟩),
   (0x03D, .float ⟨0x00000000⟩ ⟨0x49742400⟩), (0x03E, .float ⟨0xC47A0000⟩ ⟨0x447A0000⟩),
   (0x03F, .float ⟨0xC47A0000⟩ ⟨0x447A0000⟩), (0x040, .float ⟨0x00000000⟩ ⟨0x3F800000⟩),
   (0x041, .unsigned 0 0xFFFFFFFF), (0x042, .unsigned 0 0xFFFFFFFF), (0x043, .unsigned 0 0xFFFFFFFF),
   (0x044, .unsigned 0 0xFFFFFFFF)]

/-- The number of a field that an all-pass stage and a plain delay share (46_diagnostic.md R501). -/
def tapFieldNumber : TapField → Nat
  | .sd => 0
  | .amt => 2
  | .rate => 3
  | .phase => 4
  | .counter => 5
  | .mod => 6
  | .da => 7
  | .db => 8
  | .ga => 9
  | .gb => 10
  | .widx => 11

/-- The number N of a field (46_diagnostic.md R501). -/
def fieldNumber : FieldRef → Nat
  | .onePole _ .mode => 0
  | .onePole _ .cutoff => 1
  | .onePole _ .a1 => 2
  | .onePole _ .b0 => 3
  | .onePole _ .y => 4
  | .biquad _ .type => 0
  | .biquad _ .freq => 1
  | .biquad _ .gainDb => 2
  | .biquad _ .q => 3
  | .biquad _ .b0 => 4
  | .biquad _ .b1 => 5
  | .biquad _ .b2 => 6
  | .biquad _ .a1 => 7
  | .biquad _ .a2 => 8
  | .biquad _ .x1 => 9
  | .biquad _ .x2 => 10
  | .biquad _ .y1 => 11
  | .biquad _ .y2 => 12
  | .apf _ _ (.tap f) => tapFieldNumber f
  | .apf _ _ .g => 1
  | .apf _ _ .modEn => 12
  | .mdly _ f => tapFieldNumber f
  | .diff _ .count => 0
  | .diff _ .seed => 1
  | .diff _ .cs => 2
  | .diff _ .nomDelay => 3
  | .diff _ .nomAmt => 4
  | .diff _ .nomRate => 5
  | .diff _ .g => 6
  | .diff _ .modEn => 7
  | .diff _ (.vec k) => 0x040 + k
  | .mt .count => 0
  | .mt .len => 1
  | .mt .decay => 2
  | .mt .seed => 3
  | .mt .cs => 4
  | .mt .widx => 5
  | .mt (.gain j) => 0x100 + j
  | .mt (.pos j) => 0x200 + j
  | .mt (.w j) => 0x300 + j
  | .mt (.idx j) => 0x400 + j
  | .line _ .gain => 0
  | .line _ .fbLevel => 1
  | .line _ .fbRdPtr => 2
  | .chan .cs => 0
  | .chan .lineCount => 1
  | .chan .nomLine => 2
  | .chan .decaySamples => 3
  | .chan (.lineVec k) => 0x040 + k

/-- The clamp of a field of a tap whose buffer has n cells (46_diagnostic.md R501). -/
def tapFieldClamp (n : Nat) : TapField → WriteType
  | .sd => .unsigned 1 (n - 2)
  | .amt => .float ⟨0x00000000⟩ (F32.ofNat n)
  | .rate => .float ⟨0x00000000⟩ ⟨0x40000000⟩
  | .phase => .float ⟨0x00000000⟩ ⟨0x3F7FFFFF⟩
  | .counter => .unsigned 0 8
  | _ => .readOnly

/-- Whether WDER may write a field, and the clamp applied to what it writes (46_diagnostic.md R501). -/
def fieldClamp : FieldRef → WriteType
  | .onePole _ .a1 => .anyFloat
  | .onePole _ .b0 => .anyFloat
  | .onePole _ .y => .anyFloat
  | .onePole _ _ => .readOnly
  | .biquad _ .type => .readOnly
  | .biquad _ .freq => .readOnly
  | .biquad _ .gainDb => .readOnly
  | .biquad _ .q => .readOnly
  | .biquad _ _ => .anyFloat
  | .apf _ _ (.tap f) => tapFieldClamp 19202 f
  | .apf _ _ .g => .float ⟨0x00000000⟩ ⟨0x3F7FBE77⟩
  | .mdly _ f => tapFieldClamp 192000 f
  | .line _ .gain => .float ⟨0x00000000⟩ ⟨0x3F7FFFFF⟩
  | _ => .readOnly

/-- A mapped address of the host window (20_memory.md R121). -/
def mappedAddr (a : Nat) : Prop :=
  a < 0x38 ∨ (0x10000 ≤ a ∧ a < 0x10000 + 4 * 1024) ∨ (0x14000 ≤ a ∧ a < 0x14000 + 4 * 1024) ∨
    (0x18000 ≤ a ∧ a < 0x18000 + 4 * 1024) ∨ (0x1C000 ≤ a ∧ a < 0x1C000 + 4 * 1024) ∨
    (0x20000 ≤ a ∧ a < 0x20000 + 4 * 1024)

/-- A host access is a bus error (20_memory.md R124). -/
def isBusError (width : Width) (addr : BitVec 18) : Prop :=
  addr.toNat % 4 ≠ 0 ∨ width ≠ .word ∨ ¬ mappedAddr addr.toNat

/-- The word at byte address a of the host window, little-endian (20_memory.md R122). -/
def State.wordAt (s : State) (a : Nat) : Option Word := s.mem.readWord a

/-- The contents of a FIFO, oldest first (44_fdn_channel.md R390). -/
def Fifo.contents (f : Fifo) : List F32 :=
  (List.range f.level).map (fun k => Buf.get f.cells ((f.rd + k) % 2048))

/-- Every FIFO of a channel holds at most one block (44_fdn_channel.md R398). -/
def Channel.fifosWithinBlock (c : Channel) : Bool :=
  c.lines.all (fun l => decide (l.fb.rd < 2048) && decide (l.fb.level ≤ 1024))

/-- The mask that selects one channel (30_encoding.md R162). -/
def maskOf : Chan → BitVec 2
  | .L => 0b01
  | .R => 0b10

/-- The base of IN of a channel (20_memory.md R121). -/
def inBase : Chan → Nat
  | .L => 0x10000
  | .R => 0x14000

/-- The base of OUT of a channel (20_memory.md R121). -/
def outBase : Chan → Nat
  | .L => 0x18000
  | .R => 0x1C000

/-- A command reads the word at byte address a of the host window (20_memory.md R133). -/
def readsWord (i : Instr) (a : Nat) : Prop :=
  match i with
  | .proc _ _ n => ∃ (c : Chan) (k : Nat), k < n.toNat ∧ a = inBase c + 4 * k
  | .uproc ch _ n => ∃ (c : Chan) (k : Nat), maskOf c &&& ch ≠ 0 ∧ k < n.toNat ∧ a = inBase c + 4 * k
  | _ => False

/-- A command writes the word at byte address a of the host window (20_memory.md R133). -/
def writesWord (i : Instr) (a : Nat) : Prop :=
  match i with
  | .proc _ _ n => ∃ (c : Chan) (k : Nat), k < n.toNat ∧ a = outBase c + 4 * k
  | .uproc ch _ n => ∃ (c : Chan) (k : Nat), maskOf c &&& ch ≠ 0 ∧ k < n.toNat ∧ a = outBase c + 4 * k
  | .vgen _ _ n _ => ∃ k : Nat, k < n.toNat ∧ a = 0x20000 + 4 * k
  | .vgenx _ _ n _ _ => ∃ k : Nat, k < n.toNat ∧ a = 0x20000 + 4 * k
  | _ => False

/-- The length of a command by its opcode (30_encoding.md R163). -/
def lengthOfOp (op : Nat) : Nat :=
  if op = 0x02 ∨ op = 0x04 ∨ op = 0x08 ∨ op = 0x0D ∨ op = 0x10 ∨ op = 0x13 then 2 else if op = 0x0E then 3 else 1

/-- The opcode of a command word: bits 31:26 (30_encoding.md R161). -/
def opOf (w : Word) : Nat := w.toNat / 2 ^ 26

/-- The illegal opcodes (30_encoding.md R167). -/
def illegalOp (op : Nat) : Prop := op = 0x07 ∨ op = 0x0F ∨ 0x14 ≤ op

/-- A write of field f refreshes the tap of f, which may change field g (46_diagnostic.md R504). -/
def FieldRef.refreshes : FieldRef → FieldRef → Bool
  | .apf d s (.tap f), .apf e k (.tap g) => d == e && s == k && tapRefreshes f g
  | .mdly d f, .mdly e g => d == e && tapRefreshes f g
  | _, _ => false
where
  /-- SD, AMT and RATE refresh DA, DB, GA and GB. -/
  tapRefreshes (f g : TapField) : Bool :=
    (f == .sd || f == .amt || f == .rate) && (g == .da || g == .db || g == .ga || g == .gb)

/-- What no derivation and no clear changes in a tap: its write index, phase, counter and LFO value
(45_control.md R454, R455). -/
def Tap.pointers (t : Tap) : Nat × F32 × Nat × F32 := (t.widx, t.phase, t.counter, t.mod)

/-- The pointers of the stages of a diffuser. -/
def Diff.pointers (d : Diff) : List (Nat × F32 × Nat × F32) :=
  (firstTwelve 12).map (fun k => (d.stages.get k).tap.pointers)

/-- The pointers of a line: its FIFO's RD and LEVEL, and those of its taps. -/
def Line.pointers (l : Line) : Nat × Nat × (Nat × F32 × Nat × F32) × List (Nat × F32 × Nat × F32) :=
  (l.fb.rd, l.fb.level, l.mdly.pointers, l.dif.pointers)

/-- The pointers of a channel: write indexes, FIFO RD and LEVEL, LFO PHASE, COUNTER and MOD (45_control.md R454). -/
def Channel.pointers (c : Channel) :
    (Nat × F32 × Nat × F32) × Nat × List (Nat × F32 × Nat × F32) ×
      List (Nat × Nat × (Nat × F32 × Nat × F32) × List (Nat × F32 × Nat × F32)) :=
  (c.pre.pointers, c.mt.widx, c.ed.pointers, (firstTwelve 12).map (fun k => (c.lines.get k).pointers))

/-- What no derivation changes in a channel: the MODE of each one-pole (10_state.md R61), and the unused entries of IDX
and W, those at and beyond TAP_COUNT (43_multitap.md R360). -/
def Channel.fixed (c : Channel) : Bool × Bool × List Bool × List Int × List F32 :=
  (c.hpc.highPass, c.lpc.highPass, (firstTwelve 12).map (fun k => (c.lines.get k).damp.highPass),
    c.mt.idx.drop c.regs.tapCount.toNat, c.mt.w.drop c.regs.tapCount.toNat)

/-- The sample buffers of a diffuser are in canonical form. -/
def Diff.buffersWf (d : Diff) : Bool := d.stages.all (fun u => u.tap.buf.wf)

/-- The sample buffers and FIFO cells of a channel are in canonical form. -/
def Channel.buffersWf (c : Channel) : Bool :=
  c.pre.buf.wf && c.mt.buf.wf && c.ed.buffersWf &&
    c.lines.all (fun l => l.fb.cells.wf && l.mdly.buf.wf && l.dif.buffersWf)

/-- Every COUNT of a channel's units is in its range: 1..12 in a diffuser, 1..256 in the multi-tap (10_state.md R65,
R66). -/
def Channel.countsInRange (c : Channel) : Bool :=
  decide (1 ≤ c.mt.count) && decide (c.mt.count ≤ 256) && decide (1 ≤ c.ed.count) && decide (c.ed.count ≤ 12) &&
    c.lines.all (fun l => decide (1 ≤ l.dif.count) && decide (l.dif.count ≤ 12))

/-- Every COUNT of both channels is in its range (10_state.md R65, R66). -/
def State.countsInRange (s : State) : Bool := s.chL.countsInRange && s.chR.countsInRange

/-- The unit invariants of a channel. -/
def Channel.sound (c : Channel) : Bool :=
  c.gainsBelowOne && c.inRange && c.fifosWithinBlock && c.buffersWf

/-- The unit invariants of both channels (10_state.md R63-R67, 44_fdn_channel.md R398, R402). -/
def State.unitsSound (s : State) : Bool := s.chL.sound && s.chR.sound

/-! ### Derived values -/

/-- The diffuser d is the derived diffuser e with this COUNT, G and MOD_EN, the last two also in all 12 stages
(42_allpass_delay.md R311, R312, R315, R316). -/
def DiffDerived (d e : Diff) (count : Word) (g : F32) (modEn : Bool) : Prop :=
  d.count = count.toNat ∧ d.g = g ∧ d.modEn = modEn ∧ d.seed = e.seed ∧ d.cs = e.cs ∧ d.vec = e.vec ∧
    d.nomDelay = e.nomDelay ∧ d.nomAmt = e.nomAmt ∧ d.nomRate = e.nomRate ∧
    ∀ j : Fin 12, d.stages.get j = { e.stages.get j with g := g, modEn := modEn }

section Design

open F32 (add sub mul div neg sqrt)

/-- The coefficients of d are those of the design formulas of its TYPE, for the shared terms V and K
(41_filters.md R256-R261). -/
def BqDesigned (T : Transc) (fs : F32) (d : Biquad) (v k : F32) : Prop :=
  ∃ kk one two kq vq oq s2v s2k vkk : F32, kk = mul k k ∧ one = ⟨0x3F800000⟩ ∧ two = ⟨0x40000000⟩ ∧
    kq = div k d.q ∧ vq = mul (div v d.q) k ∧ oq = mul (div one d.q) k ∧
    s2v = mul (sqrt (mul two v)) k ∧ s2k = mul (sqrt two) k ∧ vkk = mul (mul v k) k ∧
    match d.type with
    | .lp6 => ∃ p, p = T.exp32 (neg (div (mul ⟨0x40C90FDB⟩ d.freq) fs)) ∧
      d.a1 = neg p ∧ d.a2 = ⟨0x00000000⟩ ∧ d.b2 = ⟨0x00000000⟩ ∧ d.b0 = add one d.a1 ∧ d.b1 = ⟨0x00000000⟩
    | .hp6 => ∃ p, p = T.exp32 (neg (div (mul ⟨0x40C90FDB⟩ d.freq) fs)) ∧
      d.a1 = neg p ∧ d.a2 = ⟨0x00000000⟩ ∧ d.b2 = ⟨0x00000000⟩ ∧ d.b0 = div (sub one d.a1) two ∧ d.b1 = neg d.b0
    | .lp => ∃ n, n = div one (add (add one kq) kk) ∧
      d.a1 = mul (mul two (sub kk one)) n ∧ d.a2 = mul (add (sub one kq) kk) n ∧
      d.b0 = mul kk n ∧ d.b1 = mul two d.b0 ∧ d.b2 = d.b0
    | .hp => ∃ n, n = div one (add (add one kq) kk) ∧
      d.a1 = mul (mul two (sub kk one)) n ∧ d.a2 = mul (add (sub one kq) kk) n ∧
      d.b0 = mul one n ∧ d.b1 = mul ⟨0xC0000000⟩ d.b0 ∧ d.b2 = d.b0
    | .bp => ∃ n, n = div one (add (add one kq) kk) ∧
      d.a1 = mul (mul two (sub kk one)) n ∧ d.a2 = mul (add (sub one kq) kk) n ∧
      d.b0 = mul kq n ∧ d.b1 = ⟨0x00000000⟩ ∧ d.b2 = neg d.b0
    | .notch => ∃ n, n = div one (add (add one kq) kk) ∧
      d.a1 = mul (mul two (sub kk one)) n ∧ d.a2 = mul (add (sub one kq) kk) n ∧
      d.b0 = mul (add one kk) n ∧ d.b1 = mul (mul two (sub kk one)) n ∧ d.b2 = d.b0
    | .peak =>
      if F32.ge d.gainDb ⟨0x00000000⟩ then
        ∃ n, n = div one (add (add one oq) kk) ∧
          d.b0 = mul (add (add one vq) kk) n ∧ d.b1 = mul (mul two (sub kk one)) n ∧
          d.b2 = mul (add (sub one vq) kk) n ∧ d.a1 = d.b1 ∧ d.a2 = mul (add (sub one oq) kk) n
      else
        ∃ n, n = div one (add (add one vq) kk) ∧
          d.b0 = mul (add (add one oq) kk) n ∧ d.b1 = mul (mul two (sub kk one)) n ∧
          d.b2 = mul (add (sub one oq) kk) n ∧ d.a1 = d.b1 ∧ d.a2 = mul (add (sub one vq) kk) n
    | .lsh =>
      if F32.ge d.gainDb ⟨0x00000000⟩ then
        ∃ n, n = div one (add (add one s2k) kk) ∧
          d.b0 = mul (add (add one s2v) vkk) n ∧ d.b1 = mul (mul two (sub vkk one)) n ∧
          d.b2 = mul (add (sub one s2v) vkk) n ∧ d.a1 = mul (mul two (sub kk one)) n ∧
          d.a2 = mul (add (sub one s2k) kk) n
      else
        ∃ n, n = div one (add (add one s2v) vkk) ∧
          d.b0 = mul (add (add one s2k) kk) n ∧ d.b1 = mul (mul two (sub kk one)) n ∧
          d.b2 = mul (add (sub one s2k) kk) n ∧ d.a1 = mul (mul two (sub vkk one)) n ∧
          d.a2 = mul (add (sub one s2v) vkk) n
    | .hsh =>
      if F32.ge d.gainDb ⟨0x00000000⟩ then
        ∃ n, n = div one (add (add one s2k) kk) ∧
          d.b0 = mul (add (add v s2v) kk) n ∧ d.b1 = mul (mul two (sub kk v)) n ∧
          d.b2 = mul (add (sub v s2v) kk) n ∧ d.a1 = mul (mul two (sub kk one)) n ∧
          d.a2 = mul (add (sub one s2k) kk) n
      else
        ∃ n, n = div one (add (add v s2v) kk) ∧
          d.b0 = mul (add (add one s2k) kk) n ∧ d.b1 = mul (mul two (sub kk one)) n ∧
          d.b2 = mul (add (sub one s2k) kk) n ∧ d.a1 = mul (mul two (sub kk v)) n ∧
          d.a2 = mul (add (sub v s2v) kk) n

end Design

end Sys2Proof.Machine
end

