-- ==== Sys2Proof/Certificates/Slice0/Obligations.lean ====
section
/-!
DEFINITION. The statements for the provers, one Prop each. Each docstring names the rule of spec/ it formalises. The
words they are stated in (completed, errored, Refuses, Stalls, mapped, …) stand in Sys2Proof/Safety.lean.
-/

open Sys2Proof Sys2Proof.Machine

/-! ### Encoding -/

/-- Decoding the words of a command, whatever follows them, gives the command and what follows
(30_encoding.md R160, R161, R163, R165). -/
def Obligations.DecodeEncode : Prop :=
  ∀ (i : Instr) (rest : List Word), decode (encode i ++ rest) = .ok (i, rest)

/-- The words a command was decoded from are its encoding (30_encoding.md R160, R165). -/
def Obligations.EncodeDecode : Prop :=
  ∀ (ws : List Word) (i : Instr) (rest : List Word), decode ws = .ok (i, rest) → ws = encode i ++ rest

/-- The length of a command is a function of OP alone; until all its words are there STATUS.WAITOP = 1 and the core
makes no step (30_encoding.md R163). -/
def Obligations.LengthsAndWait : Prop :=
  (∀ i : Instr, (encode i).length = lengthOfOp (opOf (headOf i)) ∧
    (encode i).length = match i with
      | .nop .. | .sync .. | .rreg .. | .clear .. | .proc .. | .rngu .. | .rngi .. | .rngf .. | .rngb .. | .uproc ..
      | .rder .. => 1
      | .wreg .. | .setfs .. | .rngseed .. | .vgen .. | .bqresp .. | .wder .. => 2
      | .vgenx .. => 3) ∧
  (∀ op : Nat, illegalOp op → lengthOfOp op = 1) ∧
  (∀ (s : State) (w : Word) (ws : List Word), s.script = [] → s.halt = false → s.cmdFifo = w :: ws →
    s.cmdFifo.length < lengthOfOp (opOf w) → step s = .next s ∧ s.status.getLsbD 5 = true) ∧
  (∀ (s : State) (w : Word) (ws : List Word), s.halt = false → s.cmdFifo = w :: ws →
    lengthOfOp (opOf w) ≤ s.cmdFifo.length → s.status.getLsbD 5 = false ∧ s.fetch ≠ .idle)

/-- The encoding examples of 30_encoding.md R173. -/
def Obligations.SpecWordsDecode : Prop :=
  decode [0x0B001000, 0x3F800000] = .ok (.wreg 0b11 0x001 0 0x3F800000, []) ∧
  decode [0x0D000000] = .ok (.rreg 0b01 0x000 0, []) ∧
  decode [0x10000000, 0x45FA0000] = .ok (.setfs 0 0 0 0x45FA0000, []) ∧
  decode [0x18000004] = .ok (.proc 0 0 4, []) ∧
  decode [0x49101000] = .ok (.rder 0b01 0x101 0, []) ∧
  decode [0x4D100000, 0x3F000000] = .ok (.wder 0b01 0x100 0 0x3F000000, []) ∧
  decode [0x38000004, 0x00000000, 0x3F000000] = .ok (.vgenx 0 0 4 0 0x3F000000, []) ∧
  decode [0x1C000000] = .error (.illegalOp 0x1C000000)

/-! ### Steps -/

/-- A step of a core that may step runs the command whose words are at the head of the FIFO: it is exec of that
command, at this state when the script is empty, and with the turn taken off when the script says it is the core's
turn; a host turn is the host's access (20_memory.md R129; the script is the model's own, assumption log 4). While
HALT = 1, and while the command FIFO is empty, the core's step changes nothing (60_exceptions.md R546, R557; assumption
log 11). -/
def Obligations.StepRunsCommand : Prop :=
  (∀ (s : State) (i : Instr) (rest : List Word), s.halt = false → s.cmdFifo = encode i ++ rest → s.script = [] →
    step s = exec i s) ∧
  (∀ (s : State) (i : Instr) (rest : List Word) (turns : List Turn), s.halt = false →
    s.cmdFifo = encode i ++ rest → s.script = .core :: turns → step s = exec i { s with script := turns }) ∧
  (∀ (s : State) (a : HostAccess) (turns : List Turn), s.script = .host a :: turns →
    step s = hostAccess Config.transc a { s with script := turns }) ∧
  (∀ s : State, s.script = [] → (s.halt = true ∨ s.cmdFifo = []) → step s = .next s)

/-- The error path: every command that raises an error takes it, with the record, the consumed words, HALT and the IP
bits as the rule says and nothing else changed; ERRCAUSE holds the cause's code (60_exceptions.md R545). -/
def Obligations.ErrorPathIsPrecise : Prop :=
  (∀ (i : Instr) (c : Cause), instrError i = some c → Refuses i c) ∧
  (∀ (s : State) (c : Cause) (w : Word) (len : Nat) (rest : List Word),
    (s.errored c w len rest).errCauseWord =
      match c with
      | .illegalOp => 1
      | .reserved => 2
      | .badCh => 3
      | .badSel => 4
      | .badN => 5
      | .badField => 6
      | .badValue => 7)

/-- An illegal opcode takes the error path and consumes exactly one word, whatever follows it, and the next word is
decoded as a new command; an operand word is taken by length, never decoded, so a command runs whatever its operand words
hold (60_exceptions.md R542). -/
def Obligations.IllegalOpcode : Prop :=
  (∀ (s : State) (w : Word) (rest : List Word), s.script = [] → s.halt = false → s.cmdFifo = w :: rest →
    illegalOp (opOf w) →
    step s = .next (s.errored .illegalOp w 1 rest) ∧
      ∀ (i : Instr) (tail : List Word), rest = encode i ++ tail →
        (State.clearError (s.errored .illegalOp w 1 rest)).fetch = .run i) ∧
  (∀ (s : State) (i : Instr) (rest : List Word), s.halt = false → s.cmdFifo = encode i ++ rest → s.fetch = .run i)

/-- Of several causes that apply to one command, the one reported is the lowest code among them (60_exceptions.md
R543). -/
def Obligations.LowestCause : Prop :=
  (∀ (i : Instr) (c : Cause), instrError i = some c ↔
    applies i c ∧ ∀ d : Cause, d.code < c.code → ¬ applies i d) ∧
  (∀ i : Instr, instrError i = none ↔ ∀ c : Cause, ¬ applies i c)

/-- The errors each command can raise: no other, and each of them by some command of the same opcode; the decoder rejects
exactly the illegal opcodes, with the word itself (60_exceptions.md R544, 30_encoding.md R167). -/
def Obligations.ErrorsOfCommands : Prop :=
  (∀ (i : Instr) (c : Cause), instrError i = some c → c ∈ errorsOf i) ∧
  (∀ (i : Instr) (c : Cause), c ∈ errorsOf i →
    ∃ j : Instr, opOf (headOf j) = opOf (headOf i) ∧ instrError j = some c) ∧
  (∀ (w v : Word) (rest : List Word), decode (w :: rest) = .error (.illegalOp v) ↔ v = w ∧ illegalOp (opOf w))

/-! ### Control commands -/

/-- NOP (45_control.md R450). -/
def Obligations.NopConsumesItsWord : Prop :=
  encode (.nop 0 0 0) = [0x00000000] ∧
  (∀ (s : State) (rest : List Word), s.cmdFifo = encode (.nop 0 0 0) ++ rest →
    exec (.nop 0 0 0) s = .next (s.completed 1 rest)) ∧
  (∀ (ch : BitVec 2) (sel n : BitVec 12), ch ≠ 0 ∨ sel ≠ 0 ∨ n ≠ 0 → Refuses (.nop ch sel n) .reserved)

/-- SYNC, and the response stall of every command that pushes a response (45_control.md R451). -/
def Obligations.SyncPushesTag : Prop :=
  (∀ (n : BitVec 12) (s : State) (rest : List Word), s.rspFifo.length < 64 →
    s.cmdFifo = encode (.sync 0 0 n) ++ rest →
    exec (.sync 0 0 n) s =
      .next (State.completed { s with rspFifo := s.rspFifo ++ [n.setWidth 32], ip := s.ip ||| 0b000001 } 1 rest)) ∧
  (∀ (ch : BitVec 2) (sel n : BitVec 12), ch ≠ 0 ∨ sel ≠ 0 → Refuses (.sync ch sel n) .reserved) ∧
  (∀ i : Instr, responds i = true → Stalls i) ∧
  (∀ (i : Instr) (s : State) (rest : List Word), responds i = true → s.halt = false → s.rspFifo.length = 64 →
    s.cmdFifo = encode i ++ rest → s.status.getLsbD 6 = true)

/-- WREG (45_control.md R452). -/
def Obligations.WregStoresConverted : Prop :=
  (∀ (ch : BitVec 2) (sel : BitVec 12) (value : Word) (r : Reg) (v : Word) (s : State) (rest : List Word),
    ch ≠ 0 → Reg.ofSel sel = some r → r ≠ .glob .fs → r.type.accept value = some v →
    s.cmdFifo = encode (.wreg ch sel 0 value) ++ rest →
    exec (.wreg ch sel 0 value) s = .next (State.completed
      (match r with
        | .glob g => { s with glob := s.glob.set g v }
        | .chan c => s.mapped ch (fun k old => Channel.writeEffect Config.transc s.glob.fs k c.effect
            (old.regs.get c != v) { old with regs := old.regs.set c v })) 2 rest)) ∧
  (∀ (ch : BitVec 2) (sel n : BitVec 12) (value : Word), n ≠ 0 → Refuses (.wreg ch sel n value) .reserved) ∧
  (∀ (sel : BitVec 12) (value : Word), Refuses (.wreg 0 sel 0 value) .badCh) ∧
  (∀ (ch : BitVec 2) (sel : BitVec 12) (value : Word), ch ≠ 0 → Reg.ofSel sel = none ∨ sel = 0x000 →
    Refuses (.wreg ch sel 0 value) .badSel) ∧
  (∀ (ch : BitVec 2) (sel : BitVec 12) (value : Word) (r : Reg) (lo hi : F32), ch ≠ 0 → sel ≠ 0x000 →
    Reg.ofSel sel = some r → r.type = .float lo hi → F32.isNaN ⟨value⟩ = true →
    Refuses (.wreg ch sel 0 value) .badValue) ∧
  (∀ (ch : BitVec 2) (sel : BitVec 12) (value : Word) (r : Reg) (hi : Nat), ch ≠ 0 →
    Reg.ofSel sel = some r → r.type = .enum hi → hi < value.toNat → Refuses (.wreg ch sel 0 value) .badValue)

/-- How a write word becomes the stored value, type by type: an F word that is no NaN is clamped to the bounds, a B word
stores 1 if it is nonzero and 0 otherwise, a U word is clamped, an E word within its range is stored as given; only a NaN
in an F register and an E word above its range are refused (10_state.md R50; 00_scope.md R12). The stored value is legal
for the register's type, and a stored value written again is stored as it is. The types and bounds are those of the table
of the control registers (10_state.md R53). -/
def Obligations.RegConversions : Prop :=
  (∀ (r : Reg) (w : Word), r.type.accept w =
    match r.type with
    | .float lo hi =>
      if F32.isNaN ⟨w⟩ then none
      else if F32.lt lo ⟨w⟩ then some (if F32.lt ⟨w⟩ hi then w else hi.bits)
      else some (if F32.lt lo hi then lo.bits else hi.bits)
    | .bool => some (if w = 0 then 0 else 1)
    | .unsigned lo hi => some (BitVec.ofNat 32 (min (max w.toNat lo) hi))
    | .enum hi => if hi < w.toNat then none else some w) ∧
  (∀ (r : Reg) (w v : Word), r.type.accept w = some v → r.type.legal v = true ∧ r.type.accept v = some v) ∧
  (∀ (r : Reg) (w : Word), r.type.accept w = none ↔
    (∃ lo hi, r.type = .float lo hi ∧ F32.isNaN ⟨w⟩ = true) ∨ ∃ hi, r.type = .enum hi ∧ hi < w.toNat) ∧
  (∀ (a : Nat) (y : RegType), (a, y) ∈ regTypes → (Reg.ofSel (BitVec.ofNat 12 a)).map Reg.type = some y) ∧
  (∀ (sel : BitVec 12) (r : Reg), Reg.ofSel sel = some r → (sel.toNat, r.type) ∈ regTypes)

/-- The scope of a register: a WREG to a global register stores the single copy whatever its mask, a WREG to a
per-channel one the copy of each channel its mask selects, and no other register changes; both channels read the single
copy of a global register (10_state.md R51). -/
def Obligations.RegScope : Prop :=
  (∀ (ch : BitVec 2) (sel : BitVec 12) (value : Word) (r : Reg) (v : Word) (s : State) (rest : List Word),
    ch ≠ 0 → Reg.ofSel sel = some r → r ≠ .glob .fs → r.type.accept value = some v →
    s.cmdFifo = encode (.wreg ch sel 0 value) ++ rest →
    ∃ t, exec (.wreg ch sel 0 value) s = .next t ∧ ∀ (k : Chan) (q : Reg),
      (q = r → (∃ g, r = .glob g) ∨ maskOf k &&& ch ≠ 0 → t.readReg k q = v) ∧
      (¬ (q = r ∧ ((∃ g, r = .glob g) ∨ maskOf k &&& ch ≠ 0)) → t.readReg k q = s.readReg k q)) ∧
  (∀ (s : State) (g : GReg), s.readReg .L (.glob g) = s.glob.get g ∧ s.readReg .R (.glob g) = s.glob.get g) ∧
  (∀ (s : State) (c : CReg),
    s.readReg .L (.chan c) = s.chL.regs.get c ∧ s.readReg .R (.chan c) = s.chR.regs.get c)

/-- The enable clears: a write that changes an enable register's stored bit clears the register's units in the written
channels; a write of the value already stored changes nothing; a write of any other register clears nothing, a global one
(INTERP_EN) included (45_control.md R457). -/
def Obligations.EnableClears : Prop :=
  (∀ (ch : BitVec 2) (sel : BitVec 12) (value : Word) (r : CReg) (s : State) (rest : List Word),
    r ∈ enableRegs → ch ≠ 0 → Reg.ofSel sel = some (.chan r) → s.cmdFifo = encode (.wreg ch sel 0 value) ++ rest →
    exec (.wreg ch sel 0 value) s = .next (State.completed
      (s.mapped ch (fun _ c =>
        if c.regs.get r = boolWord (value != 0) then c
        else enableCleared r { c with regs := c.regs.set r (boolWord (value != 0)) })) 2 rest)) ∧
  (∀ (T : Transc) (fs : F32) (k : Chan) (r : CReg) (v : Word) (c : Channel), r ∉ enableRegs →
    (c.writeReg T fs k r v).buffers .chan = c.buffers .chan ∧
      ∀ f : FieldRef, f.history = true → (c.writeReg T fs k r v).readField f = c.readField f) ∧
  (∀ (ch : BitVec 2) (sel n : BitVec 12) (value : Word) (g : GReg) (s t : State), Reg.ofSel sel = some (.glob g) →
    exec (.wreg ch sel n value) s = .next t → t.chL = s.chL ∧ t.chR = s.chR)

/-- A register write in a channel: the register takes the value; each unit and derived value changes only by the registers
the write-effect table gives it; no write moves a pointer; and each group of the table has its effect: a register of a
filter, of PRE, of the multi-tap or of a diffuser derives that unit from the registers as they are after the write, a seed
register and CROSS_SEED reseed it first, a register of the lines updates all 12 lines, and the counts, feedbacks and modes
go to the diffusers that hold them and to all their stages, where everything else stays (45_control.md R456;
42_allpass_delay.md R311, R312, R315, R316). The formulas behind the derivations named here are stated in
SetfsDerivesAndClears (the filters), GenerateValues (the diffusers, the multi-tap, the lines) and RefreshBounds. That a derive
of a diffuser, by its group, its seed or CROSS_SEED, rewrites G of its stages is 46_diagnostic.md R504's; that the value it
writes, to the diffuser's own G too, is the stored feedback register, and that it keeps MOD_EN, is the model's choice: assumption
log 23 (DEDUCED). -/
def Obligations.WriteEffects : Prop :=
  ∀ (T : Transc) (fs : F32) (k : Chan) (r : CReg) (v : Word) (c d : Channel), d = c.writeReg T fs k r v →
    d.regs = c.regs.set r v ∧ d.pointers = c.pointers ∧
    (r ∉ [.lowcutEn, .lowcutHz] → d.hpc = c.hpc) ∧ (r ∉ [.highcutEn, .highcutHz] → d.lpc = c.lpc) ∧
    (r ≠ .tapPredelayMs → d.pre = c.pre) ∧
    (r ∉ [.tapEn, .tapCount, .tapDecay, .tapLengthMs, .seedTap, .crossSeed] → d.mt = c.mt) ∧
    (r ∉ [.edifEn, .edifCount, .edifDelayMs, .edifFeedback, .edifModAmtMs, .edifModRateHz, .edifModEn, .seedDiffusion,
      .crossSeed] → d.ed = c.ed) ∧
    (r ∉ [.bqxType, .bqxHz, .bqxDb, .bqxQ] → d.bqx = c.bqx) ∧ (r ≠ .crossSeed → d.cs = c.cs) ∧
    (r ∉ [.lateLineSizeMs, .lateLineModAmtMs, .lateLineDecayS, .lateLineModRateHz, .seedDelay, .crossSeed] →
      d.lineVec = c.lineVec ∧ d.nomLine = c.nomLine ∧ d.decaySamples = c.decaySamples ∧
      ∀ l : Fin 12, (d.lines.get l).gain = (c.lines.get l).gain ∧ (d.lines.get l).mdly = (c.lines.get l).mdly) ∧
    (∀ l : Fin 12, (d.lines.get l).fb = (c.lines.get l).fb ∧
      (r ∉ [.lateDifEn, .lateDifCount, .lateDifDelayMs, .lateDifModAmtMs, .lateDifModRateHz, .lateDifFeedback,
        .lateDifModEn, .seedPostdiffusion, .crossSeed] → (d.lines.get l).dif = (c.lines.get l).dif) ∧
      (r ∉ [.eqLshEn, .eqLshHz, .eqLshDb] → (d.lines.get l).lsh = (c.lines.get l).lsh) ∧
      (r ∉ [.eqHshEn, .eqHshHz, .eqHshDb] → (d.lines.get l).hsh = (c.lines.get l).hsh) ∧
      (r ∉ [.eqLpEn, .eqLpHz] → (d.lines.get l).damp = (c.lines.get l).damp) ∧
      (r = .eqLpHz → (d.lines.get l).damp = (c.lines.get l).damp.derive T fs ⟨v⟩) ∧
      (r ∈ [.eqLshHz, .eqLshDb] →
        (d.lines.get l).lsh = (c.lines.get l).lsh.derive T fs .lsh d.regs.eqLshHz d.regs.eqLshDb ⟨0x3F3504F3⟩) ∧
      (r ∈ [.eqHshHz, .eqHshDb] →
        (d.lines.get l).hsh = (c.lines.get l).hsh.derive T fs .hsh d.regs.eqHshHz d.regs.eqHshDb ⟨0x3F3504F3⟩) ∧
      (r = .lateDifCount → (d.lines.get l).dif = { (c.lines.get l).dif with count := v.toNat }) ∧
      (r = .lateDifFeedback → (d.lines.get l).dif = { (c.lines.get l).dif with
        g := ⟨v⟩
        stages := (c.lines.get l).dif.stages.map (fun u => { u with g := ⟨v⟩ }) }) ∧
      (r = .lateDifModEn → (d.lines.get l).dif = { (c.lines.get l).dif with
        modEn := v != 0
        stages := (c.lines.get l).dif.stages.map (fun u => { u with modEn := v != 0 }) }) ∧
      (r ∈ [.lateDifDelayMs, .lateDifModAmtMs, .lateDifModRateHz] → (d.lines.get l).dif =
        (c.lines.get l).dif.derive T fs d.regs.lateDifDelayMs d.regs.lateDifModAmtMs d.regs.lateDifModRateHz
          d.regs.lateDifFeedback) ∧
      (r ∈ [.seedPostdiffusion, .crossSeed] → (d.lines.get l).dif =
        ((c.lines.get l).dif.reseed (d.regs.seedPostdiffusion + BitVec.ofNat 32 (l.val * 0x9E3779B9)) d.cs).derive T fs
          d.regs.lateDifDelayMs d.regs.lateDifModAmtMs d.regs.lateDifModRateHz d.regs.lateDifFeedback) ∧
      (r ∈ [.lateLineSizeMs, .lateLineModAmtMs, .lateLineDecayS, .lateLineModRateHz, .seedDelay, .crossSeed] →
        d.lineVec = generateX d.regs.seedDelay 36 d.cs ∧ d.nomLine = ms2s fs d.regs.lateLineSizeMs ∧
        d.decaySamples = F32.max ⟨0x3F800000⟩ (s2s fs d.regs.lateLineDecayS) ∧
        (d.lines.get l).gain = lineGain T (d.lines.get l).mdly.sd d.decaySamples ∧
        (d.lines.get l).mdly = Tap.refresh 192000 { (c.lines.get l).mdly with
          amt := lineJitter (ms2s fs d.regs.lateLineModAmtMs) d.lineVec (12 + l)
          rate := lineJitter (hz2c fs d.regs.lateLineModRateHz) d.lineVec (24 + l)
          sd := lineDelay d.nomLine (lineJitter (ms2s fs d.regs.lateLineModAmtMs) d.lineVec (12 + l)) d.lineVec l }) ∧
      (∀ j : Fin 12, (r = .lateDifFeedback → ((d.lines.get l).dif.stages.get j).g = ⟨v⟩) ∧
        (r = .lateDifModEn → ((d.lines.get l).dif.stages.get j).modEn = (v != 0)))) ∧
    (r = .lowcutHz → d.hpc = c.hpc.derive T fs ⟨v⟩) ∧ (r = .highcutHz → d.lpc = c.lpc.derive T fs ⟨v⟩) ∧
    (r = .tapPredelayMs → d.pre = Tap.refresh 192000
      { c.pre with sd := clampi (ms2s fs ⟨v⟩).trunc 1 191998, amt := ⟨0x00000000⟩, rate := ⟨0x00000000⟩ }) ∧
    (r ∈ [.tapCount, .tapDecay, .tapLengthMs] →
      d.mt = c.mt.derive T fs d.regs.tapCount.toNat d.regs.tapLengthMs d.regs.tapDecay) ∧
    (r ∈ [.seedTap, .crossSeed] → d.mt = (c.mt.reseed T d.regs.seedTap d.cs).derive T fs d.regs.tapCount.toNat
      d.regs.tapLengthMs d.regs.tapDecay) ∧
    (r ∈ [.edifDelayMs, .edifModAmtMs, .edifModRateHz] →
      d.ed = c.ed.derive T fs d.regs.edifDelayMs d.regs.edifModAmtMs d.regs.edifModRateHz d.regs.edifFeedback) ∧
    (r ∈ [.seedDiffusion, .crossSeed] → d.ed = (c.ed.reseed d.regs.seedDiffusion d.cs).derive T fs d.regs.edifDelayMs
      d.regs.edifModAmtMs d.regs.edifModRateHz d.regs.edifFeedback) ∧
    (∀ type : BqType, BqType.ofWord d.regs.bqxType = some type → r ∈ [.bqxType, .bqxHz, .bqxDb, .bqxQ] →
      d.bqx = c.bqx.derive T fs type d.regs.bqxHz d.regs.bqxDb d.regs.bqxQ) ∧
    (r = .edifCount → d.ed = { c.ed with count := v.toNat }) ∧
    (r = .edifFeedback →
      d.ed = { c.ed with g := ⟨v⟩, stages := c.ed.stages.map (fun u => { u with g := ⟨v⟩ }) }) ∧
    (r = .edifModEn →
      d.ed = { c.ed with modEn := v != 0, stages := c.ed.stages.map (fun u => { u with modEn := v != 0 }) }) ∧
    (∀ j : Fin 12, (r = .edifFeedback → (d.ed.stages.get j).g = ⟨v⟩) ∧
      (r = .edifModEn → (d.ed.stages.get j).modEn = (v != 0))) ∧
    (r = .crossSeed → d.cs = match k with
      | .L => F32.sub ⟨0x3F800000⟩ (F32.mul ⟨0x3F000000⟩ ⟨v⟩)
      | .R => F32.mul ⟨0x3F000000⟩ ⟨v⟩)

/-- RREG (45_control.md R453). -/
def Obligations.RregPushesStored : Prop :=
  (∀ (k : Chan) (sel : BitVec 12) (r : Reg) (s : State) (rest : List Word), Reg.ofSel sel = some r →
    s.rspFifo.length < 64 → s.cmdFifo = encode (.rreg (maskOf k) sel 0) ++ rest →
    exec (.rreg (maskOf k) sel 0) s = .next (State.completed { s with rspFifo := s.rspFifo ++
      [match r with
        | .glob g => s.glob.get g
        | .chan c => (s.chan k).regs.get c] } 1 rest)) ∧
  (∀ (ch : BitVec 2) (sel n : BitVec 12), n ≠ 0 → Refuses (.rreg ch sel n) .reserved) ∧
  (∀ (ch : BitVec 2) (sel : BitVec 12), ch = 0b00 ∨ ch = 0b11 → Refuses (.rreg ch sel 0) .badCh) ∧
  (∀ (k : Chan) (sel : BitVec 12), Reg.ofSel sel = none → Refuses (.rreg (maskOf k) sel 0) .badSel) ∧
  (∀ (ch : BitVec 2) (sel n : BitVec 12), Stalls (.rreg ch sel n))

/-- SETFS (45_control.md R454): the clamped rate, both channels derived, then cleared; the registers, the write
indexes, FIFO LEVEL and RD, LFO PHASE, COUNTER and MOD, and X are kept, every sample buffer of a channel is empty, and
every filter history is +0. The derivation, DERIVE_ALL, derives each unit from the registers and the rate: CS, the filters,
PRE, the multi-tap, the early diffuser and the lines' diffusers reseeded and with their counts, feedbacks and modes, and
then the lines (R455). The filters' design formulas are those of 41_filters.md R250 and R255 to R261, with no history
changed. -/
def Obligations.SetfsDerivesAndClears : Prop :=
  (∀ (fs : Word) (s : State) (rest : List Word), F32.isNaN ⟨fs⟩ = false →
    s.cmdFifo = encode (.setfs 0 0 0 fs) ++ rest →
    exec (.setfs 0 0 0 fs) s = .next (State.completed
      { s with
        glob := { s.glob with fs := F32.clamp ⟨fs⟩ ⟨0x45FA0000⟩ ⟨0x483B8000⟩ }
        chL := (s.chL.deriveAll Config.transc (F32.clamp ⟨fs⟩ ⟨0x45FA0000⟩ ⟨0x483B8000⟩) .L).clearAll
        chR := (s.chR.deriveAll Config.transc (F32.clamp ⟨fs⟩ ⟨0x45FA0000⟩ ⟨0x483B8000⟩) .R).clearAll } 2 rest)) ∧
  (∀ (ch : BitVec 2) (sel n : BitVec 12) (fs : Word), ch ≠ 0 ∨ sel ≠ 0 ∨ n ≠ 0 →
    Refuses (.setfs ch sel n fs) .reserved) ∧
  (∀ fs : Word, F32.isNaN ⟨fs⟩ = true → Refuses (.setfs 0 0 0 fs) .badValue) ∧
  (∀ (T : Transc) (fs : F32) (k : Chan) (c : Channel),
    ((c.deriveAll T fs k).clearAll).regs = c.regs ∧
    ((c.deriveAll T fs k).clearAll).pointers = c.pointers ∧
    (∀ b ∈ ((c.deriveAll T fs k).clearAll).buffers .chan, b = []) ∧
    (∀ f : FieldRef, f.history = true → ((c.deriveAll T fs k).clearAll).readField f = 0)) ∧
  (∀ (T : Transc) (fs : F32) (k : Chan) (c d : Channel), d = c.deriveAll T fs k →
    d.regs = c.regs ∧
    d.cs = (if k = .L then F32.sub ⟨0x3F800000⟩ (F32.mul ⟨0x3F000000⟩ c.regs.crossSeed)
      else F32.mul ⟨0x3F000000⟩ c.regs.crossSeed) ∧
    d.hpc = c.hpc.derive T fs c.regs.lowcutHz ∧ d.lpc = c.lpc.derive T fs c.regs.highcutHz ∧
    d.pre = Tap.refresh 192000 { c.pre with
      sd := clampi (ms2s fs c.regs.tapPredelayMs).trunc 1 191998, amt := ⟨0x00000000⟩, rate := ⟨0x00000000⟩ } ∧
    d.mt = (c.mt.reseed T c.regs.seedTap d.cs).derive T fs c.regs.tapCount.toNat c.regs.tapLengthMs c.regs.tapDecay ∧
    DiffDerived d.ed ((c.ed.reseed c.regs.seedDiffusion d.cs).derive T fs c.regs.edifDelayMs c.regs.edifModAmtMs
      c.regs.edifModRateHz c.regs.edifFeedback) c.regs.edifCount c.regs.edifFeedback c.regs.edifModEn ∧
    (∀ type : BqType, BqType.ofWord c.regs.bqxType = some type →
      d.bqx = c.bqx.derive T fs type c.regs.bqxHz c.regs.bqxDb c.regs.bqxQ) ∧
    d.lineVec = generateX c.regs.seedDelay 36 d.cs ∧ d.nomLine = ms2s fs c.regs.lateLineSizeMs ∧
    d.decaySamples = F32.max ⟨0x3F800000⟩ (s2s fs c.regs.lateLineDecayS) ∧
    ∀ l : Fin 12,
      DiffDerived (d.lines.get l).dif (((c.lines.get l).dif.reseed
        (c.regs.seedPostdiffusion + BitVec.ofNat 32 (l.val * 0x9E3779B9)) d.cs).derive T fs c.regs.lateDifDelayMs
          c.regs.lateDifModAmtMs c.regs.lateDifModRateHz c.regs.lateDifFeedback) c.regs.lateDifCount
            c.regs.lateDifFeedback c.regs.lateDifModEn ∧
      (d.lines.get l).lsh = (c.lines.get l).lsh.derive T fs .lsh c.regs.eqLshHz c.regs.eqLshDb ⟨0x3F3504F3⟩ ∧
      (d.lines.get l).hsh = (c.lines.get l).hsh.derive T fs .hsh c.regs.eqHshHz c.regs.eqHshDb ⟨0x3F3504F3⟩ ∧
      (d.lines.get l).damp = (c.lines.get l).damp.derive T fs c.regs.eqLpHz ∧
      (d.lines.get l).fb = (c.lines.get l).fb ∧
      (d.lines.get l).gain = lineGain T (d.lines.get l).mdly.sd d.decaySamples ∧
      (d.lines.get l).mdly = Tap.refresh 192000 { (c.lines.get l).mdly with
        amt := lineJitter (ms2s fs c.regs.lateLineModAmtMs) d.lineVec (12 + l)
        rate := lineJitter (hz2c fs c.regs.lateLineModRateHz) d.lineVec (24 + l)
        sd := lineDelay d.nomLine (lineJitter (ms2s fs c.regs.lateLineModAmtMs) d.lineVec (12 + l)) d.lineVec l }) ∧
  (∀ (T : Transc) (fs fc : F32) (u : OnePole), ∃ fcc x nn alpha : F32,
    fcc = F32.clamp fc ⟨0x00000000⟩ (F32.mul ⟨0x3EFF7CEE⟩ fs) ∧ x = F32.div (F32.mul ⟨0x40C90FDB⟩ fcc) fs ∧
    nn = F32.sub ⟨0x40000000⟩ (T.cos32 x) ∧
    alpha = F32.sub nn (F32.sqrt (F32.sub (F32.mul nn nn) ⟨0x3F800000⟩)) ∧
    u.derive T fs fc = { u with cutoff := fcc, a1 := alpha, b0 := F32.sub ⟨0x3F800000⟩ alpha }) ∧
  (List.range 10).map (fun n => BqType.ofWord (BitVec.ofNat 32 n)) =
    [some .lp6, some .hp6, some .lp, some .hp, some .bp, some .notch, some .peak, some .lsh, some .hsh, none] ∧
  (∀ (T : Transc) (fs : F32) (type : BqType) (freq gainDb q : F32) (u d : Biquad),
    d = u.derive T fs type freq gainDb q →
    d.type = type ∧ d.freq = F32.clamp freq ⟨0x00000000⟩ (F32.mul ⟨0x3EFF7CEE⟩ fs) ∧
    d.gainDb = F32.clamp gainDb ⟨0xC2700000⟩ ⟨0x42700000⟩ ∧ d.q = F32.max q ⟨0x3A83126F⟩ ∧
    d.x1 = u.x1 ∧ d.x2 = u.x2 ∧ d.y1 = u.y1 ∧ d.y2 = u.y2 ∧
    BqDesigned T fs d (T.exp10 (F32.div (F32.abs d.gainDb) ⟨0x41A00000⟩))
      (T.tan32 (F32.div (F32.mul ⟨0x40490FDB⟩ d.freq) fs)))

/-- After SETFS a channel depends on its registers and the rate alone, but for its pointers and LFOs: two channels with
the same registers, whatever was written into their derived state before, come out the same (45_control.md R455, R461).
The unused entries of IDX and W are among what is kept (assumption log 15), and BQX_TYPE is legal (10_state.md R50). -/
def Obligations.SetfsFromRegisters : Prop :=
  ∀ (T : Transc) (fs : F32) (k : Chan) (c d : Channel), c.regs = d.regs → c.regs.bqxType.toNat ≤ 8 →
    c.pointers = d.pointers → c.fixed = d.fixed →
    (c.deriveAll T fs k).clearAll = (d.deriveAll T fs k).clearAll

/-- CLEAR (45_control.md R458): the unit is cleared in each selected channel; a clear never derives, never changes a
register and never moves a pointer. -/
def Obligations.ClearZeroesUnit : Prop :=
  (∀ (ch : BitVec 2) (sel : BitVec 12) (u : UnitRef) (s : State) (rest : List Word), ch ≠ 0 →
    UnitRef.ofSel sel = some u → s.cmdFifo = encode (.clear ch sel 0) ++ rest →
    exec (.clear ch sel 0) s = .next ((s.mapped ch (fun _ c => c.clearUnit u)).completed 1 rest)) ∧
  (∀ (ch : BitVec 2) (sel n : BitVec 12), n ≠ 0 → Refuses (.clear ch sel n) .reserved) ∧
  (∀ sel : BitVec 12, Refuses (.clear 0 sel 0) .badCh) ∧
  (∀ (ch : BitVec 2) (sel : BitVec 12), ch ≠ 0 → UnitRef.ofSel sel = none ∨ sel = 0xF00 →
    Refuses (.clear ch sel 0) .badSel) ∧
  (∀ (c : Channel) (u : UnitRef), (c.clearUnit u).regs = c.regs ∧ (c.clearUnit u).pointers = c.pointers ∧
    (∀ f : FieldRef, f.history = false → (c.clearUnit u).readField f = c.readField f) ∧
    c.clearUnit .chan = c.clearAll)

/-- What a clear does to a channel: the sample buffers of the unit are empty, the filter histories it covers read +0,
every other field of every unit stays, and every sample buffer and every FIFO outside the unit keeps its cells
(45_control.md R459, R462). -/
def Obligations.ClearedFields : Prop :=
  ∀ (c : Channel) (u : UnitRef),
    (∀ b ∈ (c.clearUnit u).buffers u, b = []) ∧
    (∀ f : FieldRef, (c.clearUnit u).readField f = if f.history && u.covers f.unit then 0 else c.readField f) ∧
    (∀ (d : DiffRef) (s : Fin 12), ((c.clearUnit u).apf d s).tap.buf =
      if u.empties (.apf d s) then [] else (c.apf d s).tap.buf) ∧
    (∀ r : MdlyRef, ((c.clearUnit u).mdly r).buf = if u.empties (.mdly r) then [] else (c.mdly r).buf) ∧
    (c.clearUnit u).mt.buf = (if u.empties .mt then [] else c.mt.buf) ∧
    (∀ l : Fin 12, ((c.clearUnit u).lines.get l).fb =
      if u.empties (.line l) then { (c.lines.get l).fb with cells := [] } else (c.lines.get l).fb)

/-! ### The generator commands -/

/-- RNGSEED (40_rng_vgen.md R210). -/
def Obligations.RngseedStoresSeed : Prop :=
  (∀ (seed : Word) (s : State) (rest : List Word), s.cmdFifo = encode (.rngseed 0 0 0 seed) ++ rest →
    exec (.rngseed 0 0 0 seed) s = .next (State.completed { s with x := seed } 2 rest)) ∧
  (∀ (ch : BitVec 2) (sel n : BitVec 12) (seed : Word), ch ≠ 0 ∨ sel ≠ 0 ∨ n ≠ 0 →
    Refuses (.rngseed ch sel n seed) .reserved)

/-- The draws RNGU, RNGI, RNGF and RNGB: X advances by one LCG step, and the pushed word is the new X, its low 31 bits i,
f32(i) / f32(2147483647), and 2·f - 1 of that f (40_rng_vgen.md R200-R204, R211-R214). -/
def Obligations.DrawsPushSuccessor : Prop :=
  (∀ (s : State) (rest : List Word), s.rspFifo.length < 64 → s.cmdFifo = encode (.rngu 0 0 0) ++ rest →
    exec (.rngu 0 0 0) s = .next (State.completed
      { s with x := 22695477#32 * s.x + 1#32, rspFifo := s.rspFifo ++ [22695477#32 * s.x + 1#32] } 1 rest)) ∧
  (∀ (ch : BitVec 2) (sel n : BitVec 12), ch ≠ 0 ∨ sel ≠ 0 ∨ n ≠ 0 → Refuses (.rngu ch sel n) .reserved) ∧
  (∀ (ch : BitVec 2) (sel n : BitVec 12), Stalls (.rngu ch sel n)) ∧
  (∀ (s : State) (rest : List Word), s.rspFifo.length < 64 → s.cmdFifo = encode (.rngi 0 0 0) ++ rest →
    exec (.rngi 0 0 0) s = .next (State.completed
      { s with x := 22695477#32 * s.x + 1#32,
               rspFifo := s.rspFifo ++ [(22695477#32 * s.x + 1#32) &&& 0x7FFFFFFF#32] } 1 rest)) ∧
  (∀ (ch : BitVec 2) (sel n : BitVec 12), ch ≠ 0 ∨ sel ≠ 0 ∨ n ≠ 0 → Refuses (.rngi ch sel n) .reserved) ∧
  (∀ (ch : BitVec 2) (sel n : BitVec 12), Stalls (.rngi ch sel n)) ∧
  (∀ (s : State) (rest : List Word), s.rspFifo.length < 64 → s.cmdFifo = encode (.rngf 0 0 0) ++ rest →
    exec (.rngf 0 0 0) s = .next (State.completed
      { s with x := 22695477#32 * s.x + 1#32,
               rspFifo := s.rspFifo ++
                [(F32.div (F32.ofNat ((22695477#32 * s.x + 1#32) &&& 0x7FFFFFFF#32).toNat)
                  (F32.ofNat 2147483647)).bits] } 1 rest)) ∧
  (∀ (ch : BitVec 2) (sel n : BitVec 12), ch ≠ 0 ∨ sel ≠ 0 ∨ n ≠ 0 → Refuses (.rngf ch sel n) .reserved) ∧
  (∀ (ch : BitVec 2) (sel n : BitVec 12), Stalls (.rngf ch sel n)) ∧
  (∀ (s : State) (rest : List Word), s.rspFifo.length < 64 → s.cmdFifo = encode (.rngb 0 0 0) ++ rest →
    exec (.rngb 0 0 0) s = .next (State.completed
      { s with x := 22695477#32 * s.x + 1#32,
               rspFifo := s.rspFifo ++
                [(F32.sub (F32.mul ⟨0x40000000⟩
                  (F32.div (F32.ofNat ((22695477#32 * s.x + 1#32) &&& 0x7FFFFFFF#32).toNat)
                    (F32.ofNat 2147483647))) ⟨0x3F800000⟩).bits] } 1 rest)) ∧
  (∀ (ch : BitVec 2) (sel n : BitVec 12), ch ≠ 0 ∨ sel ≠ 0 ∨ n ≠ 0 → Refuses (.rngb ch sel n) .reserved) ∧
  (∀ (ch : BitVec 2) (sel n : BitVec 12), Stalls (.rngb ch sel n)) ∧
  (∀ x : Word, 22695477#32 * x + 1#32 = 0 ↔ x = 0xD6DAEBE3)

/-- The LCG step has one predecessor for each value (40_rng_vgen.md R200); the float draw lies in [0, 1] with both ends
reachable, as R203 says where, and the bipolar draw in [-1, 1] (R204). -/
def Obligations.DrawRanges : Prop :=
  (∀ x y : Word, lcg x = lcg y → x = y) ∧
  (∀ x : Word,
    F32.ge (unitFloat x) ⟨0x00000000⟩ = true ∧ F32.ge ⟨0x3F800000⟩ (unitFloat x) = true ∧
    (unitFloat x = ⟨0x00000000⟩ ↔ (x &&& 0x7FFFFFFF#32) = 0) ∧
    (unitFloat x = ⟨0x3F800000⟩ ↔ 2147483584 ≤ (x &&& 0x7FFFFFFF#32).toNat) ∧
    ((x &&& 0x7FFFFFFF#32).toNat = 2147483583 → unitFloat x = ⟨0x3F7FFFFF⟩) ∧
    F32.ge (bipolarFloat x) ⟨0xBF800000⟩ = true ∧ F32.ge ⟨0x3F800000⟩ (bipolarFloat x) = true)

/-- Generate: count values, the k-th f32(y) / f32(4294967295) of the (k+1)-th LCG step y from the seed, each in [0, 1]
(40_rng_vgen.md R206); the first m values of a vector do not depend on its length (R208). GenerateX: count values, the
k-th (A[k]·(1 - cs)) + (B[k]·cs) of the streams of seed and of its complement; cs = 0 gives the first stream exactly,
cs = 1 the second (R207). And what is derived from a seeded vector, by which entries and which formulas: the stages of a
diffuser (42_allpass_delay.md R309, R310; 46_diagnostic.md R504; which value G takes is assumption log 23), the taps of the
multi-tap (43_multitap.md R361, R362; that entries at and beyond COUNT are kept is assumption log 15), and a line's
modulation, delay and gain (44_fdn_channel.md R392), over the conversions of 00_scope.md R17 and R18. -/
def Obligations.GenerateValues : Prop :=
  (∀ (seed : Word) (count : Nat),
    (generate seed count).length = count ∧
    (∀ k < count, (generate seed count)[k]? =
      some (F32.div (F32.ofNat ((fun y => 22695477#32 * y + 1#32)^[k + 1] seed).toNat) (F32.ofNat 4294967295))) ∧
    (∀ v ∈ generate seed count, F32.ge v ⟨0x00000000⟩ = true ∧ F32.ge ⟨0x3F800000⟩ v = true)) ∧
  (∀ (seed : Word) (m count : Nat), m ≤ count → (generate seed count).take m = generate seed m) ∧
  (∀ (seed : Word) (m count : Nat) (cs : F32), m ≤ count →
    (generateX seed count cs).take m = generateX seed m cs) ∧
  (∀ (seed : Word) (count : Nat) (cs : F32),
    (generateX seed count cs).length = count ∧
    ∀ (k : Nat) (a b : F32), (generate seed count)[k]? = some a → (generate (seed ^^^ 0xFFFFFFFF#32) count)[k]? = some b →
      (generateX seed count cs)[k]? =
        some (F32.add (F32.mul a (F32.sub ⟨0x3F800000⟩ cs)) (F32.mul b cs))) ∧
  (∀ (seed : Word) (count : Nat), generateX seed count ⟨0x00000000⟩ = generate seed count) ∧
  (∀ (seed : Word) (count : Nat),
    generateX seed count ⟨0x3F800000⟩ = generate (seed ^^^ 0xFFFFFFFF#32) count) ∧
  (∀ fs x : F32, ms2s fs x = F32.div (F32.mul x fs) ⟨0x447A0000⟩ ∧ hz2c fs x = F32.div x fs ∧ s2s fs x = F32.mul x fs) ∧
  (∀ (T : Transc) (fs delayMs amtMs rateHz g : F32) (d e : Diff), e = d.derive T fs delayMs amtMs rateHz g →
    e.nomDelay = ms2s fs delayMs ∧ e.nomAmt = ms2s fs amtMs ∧ e.nomRate = hz2c fs rateHz ∧ e.g = g ∧
    { e with nomDelay := d.nomDelay, nomAmt := d.nomAmt, nomRate := d.nomRate, g := d.g, stages := d.stages } = d ∧
    ∀ i : Fin 12, e.stages.get i = { d.stages.get i with g := g, tap := Tap.refresh 19202 { (d.stages.get i).tap with
      sd := clampi (F32.mul e.nomDelay (F32.mul (T.exp10 (d.vec.getD i ⟨0x00000000⟩)) ⟨0x3DCCCCCD⟩)).trunc 1 19200
      amt := F32.mul e.nomAmt (F32.add ⟨0x3F59999A⟩ (F32.mul ⟨0x3E99999A⟩ (d.vec.getD (12 + i) ⟨0x00000000⟩)))
      rate := F32.mul e.nomRate (F32.add ⟨0x3F59999A⟩ (F32.mul ⟨0x3E99999A⟩ (d.vec.getD (24 + i) ⟨0x00000000⟩))) } }) ∧
  (∀ (seed : Word) (cs : F32) (d : Diff),
    d.reseed seed cs = { d with seed := seed, cs := cs, vec := generateX seed 36 cs }) ∧
  (∀ (T : Transc) (seed : Word) (cs : F32) (m e : Mt) (v : List F32), e = m.reseed T seed cs → v = generateX seed 768 cs →
    { e with gain := m.gain, pos := m.pos } = { m with seed := seed, cs := cs } ∧
    e.gain.length = 256 ∧ e.pos.length = 256 ∧
    ∀ (j : Nat) (coin g p : F32), j < 256 → v[j]? = some coin → v[256 + j]? = some g → v[512 + j]? = some p →
      e.gain[j]? = some (F32.mul (if F32.lt ⟨0x3F000000⟩ coin then ⟨0x3F800000⟩ else ⟨0xBF800000⟩)
        (T.exp10 (F32.div (F32.add ⟨0xC1A00000⟩ (F32.mul g ⟨0x41A00000⟩)) ⟨0x41A00000⟩))) ∧
      e.pos[j]? = some (F32.add (F32.ofNat j) p)) ∧
  (∀ (T : Transc) (fs : F32) (n : Nat) (ms d : F32) (m e : Mt), e = m.derive T fs n ms d →
    ∃ scaler norm : F32,
      e.count = n ∧ e.decay = d ∧ e.len = F32.clamp (ms2s fs ms) ⟨0x3F800000⟩ (F32.ofNat 191999) ∧
      scaler = F32.div e.len (F32.ofNat n) ∧
      norm = F32.mul (F32.div ⟨0x40400000⟩ (F32.sqrt (F32.add ⟨0x3F800000⟩ (F32.ofNat n))))
        (F32.add ⟨0x3F800000⟩ (F32.mul ⟨0x40000000⟩ d)) ∧
      { e with count := m.count, decay := m.decay, len := m.len, idx := m.idx, w := m.w } = m ∧
      e.idx.drop n = m.idx.drop n ∧ e.w.drop n = m.w.drop n ∧
      ∀ j < n, ∃ off dec : F32, off = F32.mul (m.pos.getD j ⟨0x00000000⟩) scaler ∧
        dec = F32.add (F32.mul (T.exp32 (F32.neg (F32.mul (F32.div off e.len) ⟨0x40533333⟩))) d)
          (F32.sub ⟨0x3F800000⟩ d) ∧
        e.idx[j]? = some (min off.trunc 191999) ∧
        e.w[j]? = some (F32.mul (F32.mul (m.gain.getD j ⟨0x00000000⟩) dec) norm)) ∧
  (∀ (T : Transc) (nominal nl amt decS : F32) (v : List F32) (k sd : Nat) (x g : F32), v[k]? = some x →
    g = T.exp10 (F32.div (F32.mul (F32.div (F32.ofNat sd) decS) ⟨0xC2700000⟩) ⟨0x41A00000⟩) →
    lineJitter nominal v k = F32.mul nominal (F32.add ⟨0x3F333333⟩ (F32.mul ⟨0x3F19999A⟩ x)) ∧
    lineDelay nl amt v k = clampi (F32.max (F32.mul (F32.add ⟨0x3F000000⟩ (F32.mul ⟨0x3F800000⟩ x)) nl)
      (F32.add amt ⟨0x40000000⟩)).trunc 1 191998 ∧
    lineGain T sd decS = if F32.ge g ⟨0x3F800000⟩ then ⟨0x3F7FFFFF⟩ else g)

/-- VGEN (40_rng_vgen.md R215): it writes VEC[0..count-1], leaves every other byte of memory as it was, and changes
nothing else. -/
def Obligations.VgenFillsVec : Prop :=
  (∀ (n : BitVec 12) (seed : Word) (s : State) (rest : List Word), 1 ≤ n.toNat → n.toNat ≤ 1024 →
    s.cmdFifo = encode (.vgen 0 0 n seed) ++ rest →
    ∃ t, exec (.vgen 0 0 n seed) s = .next t ∧
      (∀ (k : Nat) (v : F32), (generate seed n.toNat)[k]? = some v → t.wordAt (0x20000 + 4 * k) = some v.bits) ∧
      (∀ a : Nat, ¬ (0x20000 ≤ a ∧ a < 0x20000 + 4 * n.toNat) → t.mem.readByte a = s.mem.readByte a) ∧
      (∀ a : Nat, a ∈ t.written ↔ a ∈ s.written ∨ ∃ k < n.toNat, a = 0x20000 + 4 * k) ∧
      { t with mem := s.mem, written := s.written } = s.completed 2 rest) ∧
  (∀ (ch : BitVec 2) (sel n : BitVec 12) (seed : Word), ch ≠ 0 ∨ sel ≠ 0 → Refuses (.vgen ch sel n seed) .reserved) ∧
  (∀ (n : BitVec 12) (seed : Word), n.toNat = 0 ∨ 1024 < n.toNat → Refuses (.vgen 0 0 n seed) .badN)

/-- VGENX (40_rng_vgen.md R216): as VGEN, with the vector of the clamped cross-seed. -/
def Obligations.VgenxFillsVec : Prop :=
  (∀ (n : BitVec 12) (seed cs : Word) (s : State) (rest : List Word), 1 ≤ n.toNat → n.toNat ≤ 1024 →
    F32.isNaN ⟨cs⟩ = false → s.cmdFifo = encode (.vgenx 0 0 n seed cs) ++ rest →
    ∃ t, exec (.vgenx 0 0 n seed cs) s = .next t ∧
      (∀ (k : Nat) (v : F32), (generateX seed n.toNat (F32.clamp ⟨cs⟩ ⟨0x00000000⟩ ⟨0x3F800000⟩))[k]? = some v →
        t.wordAt (0x20000 + 4 * k) = some v.bits) ∧
      (∀ a : Nat, ¬ (0x20000 ≤ a ∧ a < 0x20000 + 4 * n.toNat) → t.mem.readByte a = s.mem.readByte a) ∧
      (∀ a : Nat, a ∈ t.written ↔ a ∈ s.written ∨ ∃ k < n.toNat, a = 0x20000 + 4 * k) ∧
      { t with mem := s.mem, written := s.written } = s.completed 3 rest) ∧
  (∀ (ch : BitVec 2) (sel n : BitVec 12) (seed cs : Word), ch ≠ 0 ∨ sel ≠ 0 →
    Refuses (.vgenx ch sel n seed cs) .reserved) ∧
  (∀ (n : BitVec 12) (seed cs : Word), n.toNat = 0 ∨ 1024 < n.toNat → Refuses (.vgenx 0 0 n seed cs) .badN) ∧
  (∀ (n : BitVec 12) (seed cs : Word), 1 ≤ n.toNat → n.toNat ≤ 1024 → F32.isNaN ⟨cs⟩ = true →
    Refuses (.vgenx 0 0 n seed cs) .badValue)

/-! ### The filter query -/

/-- BQRESP (41_filters.md R265), and the response it pushes: the squared-magnitude formula of the current coefficients in
phi, its guard against a negative power, and the root (41_filters.md R264). -/
def Obligations.BqrespPushesResponse : Prop :=
  (∀ (k : Chan) (sel : BitVec 12) (u : BiquadRef) (freq : Word) (s : State) (rest : List Word),
    UnitRef.ofSel sel = some (.biquad u) → F32.isNaN ⟨freq⟩ = false → s.rspFifo.length < 64 →
    s.cmdFifo = encode (.bqresp (maskOf k) sel 0 freq) ++ rest →
    exec (.bqresp (maskOf k) sel 0 freq) s = .next (State.completed
      { s with rspFifo := s.rspFifo ++ [(((s.chan k).biquad u).resp Config.transc s.glob.fs ⟨freq⟩).bits] } 2 rest)) ∧
  (∀ (ch : BitVec 2) (sel n : BitVec 12) (freq : Word), n ≠ 0 → Refuses (.bqresp ch sel n freq) .reserved) ∧
  (∀ (ch : BitVec 2) (sel : BitVec 12) (freq : Word), ch = 0b00 ∨ ch = 0b11 →
    Refuses (.bqresp ch sel 0 freq) .badCh) ∧
  (∀ (k : Chan) (sel : BitVec 12) (freq : Word), (∀ u, UnitRef.ofSel sel ≠ some (.biquad u)) →
    Refuses (.bqresp (maskOf k) sel 0 freq) .badSel) ∧
  (∀ (k : Chan) (sel : BitVec 12) (u : BiquadRef) (freq : Word), UnitRef.ofSel sel = some (.biquad u) →
    F32.isNaN ⟨freq⟩ = true → Refuses (.bqresp (maskOf k) sel 0 freq) .badValue) ∧
  (∀ (ch : BitVec 2) (sel n : BitVec 12) (freq : Word), Stalls (.bqresp ch sel n freq)) ∧
  (∀ (T : Transc) (fs freq : F32) (u : Biquad), ∃ s phi sb sa num den p : F32,
    s = T.sin32 (F32.div (F32.mul ⟨0x40490FDB⟩ freq) fs) ∧ phi = F32.mul s s ∧
    sb = F32.add (F32.add u.b0 u.b1) u.b2 ∧ sa = F32.add (F32.add ⟨0x3F800000⟩ u.a1) u.a2 ∧
    num = F32.add (F32.sub (F32.mul sb sb) (F32.mul (F32.mul ⟨0x40800000⟩
        (F32.add (F32.add (F32.mul u.b0 u.b1) (F32.mul (F32.mul ⟨0x40800000⟩ u.b0) u.b2)) (F32.mul u.b1 u.b2))) phi))
      (F32.mul (F32.mul (F32.mul (F32.mul ⟨0x41800000⟩ u.b0) u.b2) phi) phi) ∧
    den = F32.add (F32.sub (F32.mul sa sa) (F32.mul (F32.mul ⟨0x40800000⟩
        (F32.add (F32.add u.a1 (F32.mul ⟨0x40800000⟩ u.a2)) (F32.mul u.a1 u.a2))) phi))
      (F32.mul (F32.mul (F32.mul ⟨0x41800000⟩ u.a2) phi) phi) ∧
    p = F32.div num den ∧
    u.resp T fs freq = F32.sqrt (if F32.lt p ⟨0x00000000⟩ then ⟨0x00000000⟩ else p))

/-! ### The block commands -/

/-- PROC (44_fdn_channel.md R397): the cross-mix of both inputs, the two channel blocks, their outputs in OUT_L and
OUT_R, exactly those words marked as written, and nothing else changed; an unwritten IN word is the fault UNINIT. -/
def Obligations.ProcRunsBothChannels : Prop :=
  (∀ (n : BitVec 12) (a b : Nat → Word) (s : State) (rest : List Word), 1 ≤ n.toNat → n.toNat ≤ 1024 →
    (∀ k < n.toNat, 0x10000 + 4 * k ∈ s.written ∧ s.wordAt (0x10000 + 4 * k) = some (a k)) →
    (∀ k < n.toNat, 0x14000 + 4 * k ∈ s.written ∧ s.wordAt (0x14000 + 4 * k) = some (b k)) →
    s.cmdFifo = encode (.proc 0 0 n) ++ rest →
    ∃ (t : State) (uL uR oL oR : List F32), exec (.proc 0 0 n) s = .next t ∧
      uL = (List.range n.toNat).map (fun k =>
        F32.add (F32.mul ⟨a k⟩ (F32.sub ⟨0x3F800000⟩ (F32.mul s.glob.inputMix ⟨0x3F000000⟩)))
          (F32.mul ⟨b k⟩ (F32.mul s.glob.inputMix ⟨0x3F000000⟩))) ∧
      uR = (List.range n.toNat).map (fun k =>
        F32.add (F32.mul ⟨b k⟩ (F32.sub ⟨0x3F800000⟩ (F32.mul s.glob.inputMix ⟨0x3F000000⟩)))
          (F32.mul ⟨a k⟩ (F32.mul s.glob.inputMix ⟨0x3F000000⟩))) ∧
      s.chL.block Config.transc s.glob.interpEn uL = (t.chL, oL) ∧
      s.chR.block Config.transc s.glob.interpEn uR = (t.chR, oR) ∧
      oL.length = n.toNat ∧ oR.length = n.toNat ∧
      (∀ (k : Nat) (v : F32), oL[k]? = some v → t.wordAt (0x18000 + 4 * k) = some v.bits) ∧
      (∀ (k : Nat) (v : F32), oR[k]? = some v → t.wordAt (0x1C000 + 4 * k) = some v.bits) ∧
      (∀ x : Nat, ¬ (0x18000 ≤ x ∧ x < 0x18000 + 4 * n.toNat) → ¬ (0x1C000 ≤ x ∧ x < 0x1C000 + 4 * n.toNat) →
        t.mem.readByte x = s.mem.readByte x) ∧
      (∀ x : Nat, x ∈ t.written ↔
        x ∈ s.written ∨ ∃ j < n.toNat, x = 0x18000 + 4 * j ∨ x = 0x1C000 + 4 * j) ∧
      { t with chL := s.chL, chR := s.chR, mem := s.mem, written := s.written } = s.completed 1 rest) ∧
  (∀ (ch : BitVec 2) (sel n : BitVec 12), ch ≠ 0 ∨ sel ≠ 0 → Refuses (.proc ch sel n) .reserved) ∧
  (∀ n : BitVec 12, n.toNat = 0 ∨ 1024 < n.toNat → Refuses (.proc 0 0 n) .badN) ∧
  (∀ (n : BitVec 12) (k : Nat) (s : State), n.toNat ≤ 1024 → k < n.toNat →
    0x10000 + 4 * k ∉ s.written ∨ 0x14000 + 4 * k ∉ s.written → exec (.proc 0 0 n) s = .fault .uninit)

/-- UPROC (46_diagnostic.md R502): one unit of one channel alone on a block, whatever enable gates it, its output in
OUT of that channel, exactly those words marked as written, and nothing else changed; the unit runs its own step on each
sample in order, or the block of a line or a channel; an unwritten IN word is the fault UNINIT. -/
def Obligations.UprocRunsOneUnit : Prop :=
  (∀ (k : Chan) (sel n : BitVec 12) (u : UnitRef) (a : Nat → Word) (s : State) (rest : List Word),
    UnitRef.ofSel sel = some u → 1 ≤ n.toNat → n.toNat ≤ 1024 →
    (∀ j < n.toNat, inBase k + 4 * j ∈ s.written ∧ s.wordAt (inBase k + 4 * j) = some (a j)) →
    s.cmdFifo = encode (.uproc (maskOf k) sel n) ++ rest →
    ∃ (t : State) (y : List F32), exec (.uproc (maskOf k) sel n) s = .next t ∧
      (s.chan k).runUnit Config.transc s.glob.interpEn u ((List.range n.toNat).map (fun j => ⟨a j⟩)) = (t.chan k, y) ∧
      y.length = n.toNat ∧
      (∀ (j : Nat) (v : F32), y[j]? = some v → t.wordAt (outBase k + 4 * j) = some v.bits) ∧
      (∀ x : Nat, ¬ (outBase k ≤ x ∧ x < outBase k + 4 * n.toNat) → t.mem.readByte x = s.mem.readByte x) ∧
      (∀ x : Nat, x ∈ t.written ↔ x ∈ s.written ∨ ∃ j < n.toNat, x = outBase k + 4 * j) ∧
      { t.setChan k (s.chan k) with mem := s.mem, written := s.written } = s.completed 1 rest) ∧
  (∀ (ch : BitVec 2) (sel n : BitVec 12), ch = 0b00 ∨ ch = 0b11 → Refuses (.uproc ch sel n) .badCh) ∧
  (∀ (k : Chan) (sel n : BitVec 12), UnitRef.ofSel sel = none ∨ sel = 0xF00 →
    Refuses (.uproc (maskOf k) sel n) .badSel) ∧
  (∀ (k : Chan) (sel n : BitVec 12) (u : UnitRef), UnitRef.ofSel sel = some u → n.toNat = 0 ∨ 1024 < n.toNat →
    Refuses (.uproc (maskOf k) sel n) .badN) ∧
  (∀ (k : Chan) (sel n : BitVec 12) (u : UnitRef) (j : Nat) (s : State), UnitRef.ofSel sel = some u →
    n.toNat ≤ 1024 → j < n.toNat → inBase k + 4 * j ∉ s.written →
    exec (.uproc (maskOf k) sel n) s = .fault .uninit) ∧
  (∀ (T : Transc) (i : Bool) (c : Channel) (x : List F32),
    (∀ r, c.runUnit T i (.onePole r) x =
      (c.setOnePole r (runBlock OnePole.step (c.onePole r) x).1, (runBlock OnePole.step (c.onePole r) x).2)) ∧
    (∀ r, c.runUnit T i (.biquad r) x =
      (c.setBiquad r (runBlock Biquad.step (c.biquad r) x).1, (runBlock Biquad.step (c.biquad r) x).2)) ∧
    (∀ d k, c.runUnit T i (.apf d k) x =
      (c.setApf d k (runBlock (Apf.step T i) (c.apf d k) x).1, (runBlock (Apf.step T i) (c.apf d k) x).2)) ∧
    (∀ r, c.runUnit T i (.mdly r) x =
      (c.setMdly r (runBlock (Tap.step T i) (c.mdly r) x).1, (runBlock (Tap.step T i) (c.mdly r) x).2)) ∧
    (∀ r, c.runUnit T i (.diff r) x =
      (c.setDiff r (runBlock (Diff.step T i) (c.diff r) x).1, (runBlock (Diff.step T i) (c.diff r) x).2)) ∧
    c.runUnit T i .mt x = ({ c with mt := (runBlock Mt.step c.mt x).1 }, (runBlock Mt.step c.mt x).2) ∧
    (∀ l, c.runUnit T i (.line l) x =
      (c.setLine l ((c.lines.get l).block T i c.regs x).1, ((c.lines.get l).block T i c.regs x).2)) ∧
    c.runUnit T i .chan x = c.block T i x) ∧
  (∀ (σ : Type) (f : σ → F32 → σ × F32) (q : σ) (x : F32) (xs : List F32), runBlock f q [] = (q, []) ∧
    runBlock f q (x :: xs) = ((runBlock f (f q x).1 xs).1, (f q x).2 :: (runBlock f (f q x).1 xs).2))

/-! ### The field commands -/

/-- RDER (46_diagnostic.md R503); the field a number N names is the one the field tables give the unit's kind, and every
other number names none; a tap at and beyond COUNT reads IDX 0 and W +0 (46_diagnostic.md R501). And which stored value the
word of each field is, kind by kind: F as its bits, U and B zero-extended; an entry of a vector wherever the vector holds
it. (What a vector too short to hold it reads, in states no run reaches, is assumption log 16 and is not stated.) -/
def Obligations.RderPushesField : Prop :=
  (∀ (k : Chan) (sel n : BitVec 12) (u : UnitRef) (f : FieldRef) (s : State) (rest : List Word),
    UnitRef.ofSel sel = some u → FieldRef.ofN u n = some f → s.rspFifo.length < 64 →
    s.cmdFifo = encode (.rder (maskOf k) sel n) ++ rest →
    exec (.rder (maskOf k) sel n) s =
      .next (State.completed { s with rspFifo := s.rspFifo ++ [(s.chan k).readField f] } 1 rest)) ∧
  (∀ (s : State) (rest : List Word), s.rspFifo.length < 64 → s.cmdFifo = encode (.rder 0 0xF00 0) ++ rest →
    exec (.rder 0 0xF00 0) s = .next (State.completed { s with rspFifo := s.rspFifo ++ [s.x] } 1 rest)) ∧
  (∀ (ch : BitVec 2) (n : BitVec 12), ch ≠ 0 → Refuses (.rder ch 0xF00 n) .badCh) ∧
  (∀ (ch : BitVec 2) (sel n : BitVec 12), sel ≠ 0xF00 → ch = 0b00 ∨ ch = 0b11 → Refuses (.rder ch sel n) .badCh) ∧
  (∀ (k : Chan) (sel n : BitVec 12), sel ≠ 0xF00 → UnitRef.ofSel sel = none →
    Refuses (.rder (maskOf k) sel n) .badSel) ∧
  (∀ (k : Chan) (sel n : BitVec 12) (u : UnitRef), UnitRef.ofSel sel = some u → FieldRef.ofN u n = none →
    Refuses (.rder (maskOf k) sel n) .badField) ∧
  (∀ n : BitVec 12, n ≠ 0 → Refuses (.rder 0 0xF00 n) .badField) ∧
  (∀ (c : Channel) (j : Fin 256), c.mt.count ≤ j.val →
    c.readField (.mt (.idx j)) = 0 ∧ c.readField (.mt (.w j)) = 0) ∧
  (∀ (ch : BitVec 2) (sel n : BitVec 12), Stalls (.rder ch sel n)) ∧
  (∀ (u : UnitRef) (n : BitVec 12) (f : FieldRef), FieldRef.ofN u n = some f ↔ f.unit = u ∧ n.toNat = fieldNumber f) ∧
  (∀ (c : Channel) (r : OnePoleRef) (u : OnePole), u = (match r with
      | .hpc => c.hpc
      | .lpc => c.lpc
      | .damp l => (c.lines.get l).damp) →
    c.readField (.onePole r .mode) = (if u.highPass then 1 else 0) ∧ c.readField (.onePole r .cutoff) = u.cutoff.bits ∧
    c.readField (.onePole r .a1) = u.a1.bits ∧ c.readField (.onePole r .b0) = u.b0.bits ∧
    c.readField (.onePole r .y) = u.y.bits) ∧
  (∀ (c : Channel) (r : BiquadRef) (u : Biquad), u = (match r with
      | .bqx => c.bqx
      | .lsh l => (c.lines.get l).lsh
      | .hsh l => (c.lines.get l).hsh) →
    c.readField (.biquad r .type) = (match u.type with
      | .lp6 => 0
      | .hp6 => 1
      | .lp => 2
      | .hp => 3
      | .bp => 4
      | .notch => 5
      | .peak => 6
      | .lsh => 7
      | .hsh => 8) ∧
    c.readField (.biquad r .freq) = u.freq.bits ∧ c.readField (.biquad r .gainDb) = u.gainDb.bits ∧
    c.readField (.biquad r .q) = u.q.bits ∧ c.readField (.biquad r .b0) = u.b0.bits ∧
    c.readField (.biquad r .b1) = u.b1.bits ∧ c.readField (.biquad r .b2) = u.b2.bits ∧
    c.readField (.biquad r .a1) = u.a1.bits ∧ c.readField (.biquad r .a2) = u.a2.bits ∧
    c.readField (.biquad r .x1) = u.x1.bits ∧ c.readField (.biquad r .x2) = u.x2.bits ∧
    c.readField (.biquad r .y1) = u.y1.bits ∧ c.readField (.biquad r .y2) = u.y2.bits) ∧
  (∀ (c : Channel) (t : Tap) (word : TapField → Word),
    ((∃ (s : Fin 12), t = (c.ed.stages.get s).tap ∧ word = fun f => c.readField (.apf .ed s (.tap f))) ∨
      (∃ (l s : Fin 12), t = ((c.lines.get l).dif.stages.get s).tap ∧
        word = fun f => c.readField (.apf (.line l) s (.tap f))) ∨
      (t = c.pre ∧ word = fun f => c.readField (.mdly .pre f)) ∨
      ∃ l : Fin 12, t = (c.lines.get l).mdly ∧ word = fun f => c.readField (.mdly (.line l) f)) →
    word .sd = BitVec.ofNat 32 t.sd ∧ word .amt = t.amt.bits ∧ word .rate = t.rate.bits ∧ word .phase = t.phase.bits ∧
    word .counter = BitVec.ofNat 32 t.counter ∧ word .mod = t.mod.bits ∧ word .da = BitVec.ofNat 32 t.da ∧
    word .db = BitVec.ofNat 32 t.db ∧ word .ga = t.ga.bits ∧ word .gb = t.gb.bits ∧
    word .widx = BitVec.ofNat 32 t.widx) ∧
  (∀ (c : Channel) (r : DiffRef) (d : Diff), d = (match r with
      | .ed => c.ed
      | .line l => (c.lines.get l).dif) →
    c.readField (.diff r .count) = BitVec.ofNat 32 d.count ∧ c.readField (.diff r .seed) = d.seed ∧
    c.readField (.diff r .cs) = d.cs.bits ∧ c.readField (.diff r .nomDelay) = d.nomDelay.bits ∧
    c.readField (.diff r .nomAmt) = d.nomAmt.bits ∧ c.readField (.diff r .nomRate) = d.nomRate.bits ∧
    c.readField (.diff r .g) = d.g.bits ∧ c.readField (.diff r .modEn) = (if d.modEn then 1 else 0) ∧
    (∀ (k : Fin 36) (x : F32), d.vec[k.val]? = some x → c.readField (.diff r (.vec k)) = x.bits) ∧
    ∀ s : Fin 12, c.readField (.apf r s .g) = (d.stages.get s).g.bits ∧
      c.readField (.apf r s .modEn) = if (d.stages.get s).modEn then 1 else 0) ∧
  (∀ c : Channel,
    c.readField (.mt .count) = BitVec.ofNat 32 c.mt.count ∧ c.readField (.mt .len) = c.mt.len.bits ∧
    c.readField (.mt .decay) = c.mt.decay.bits ∧ c.readField (.mt .seed) = c.mt.seed ∧
    c.readField (.mt .cs) = c.mt.cs.bits ∧ c.readField (.mt .widx) = BitVec.ofNat 32 c.mt.widx ∧
    (∀ (j : Fin 256) (x : F32), (c.mt.gain[j.val]? = some x → c.readField (.mt (.gain j)) = x.bits) ∧
      (c.mt.pos[j.val]? = some x → c.readField (.mt (.pos j)) = x.bits) ∧
      (j.val < c.mt.count → c.mt.w[j.val]? = some x → c.readField (.mt (.w j)) = x.bits)) ∧
    (∀ (j : Fin 256) (i : Int), j.val < c.mt.count → c.mt.idx[j.val]? = some i →
      c.readField (.mt (.idx j)) = BitVec.ofInt 32 i) ∧
    (∀ l : Fin 12, c.readField (.line l .gain) = (c.lines.get l).gain.bits ∧
      c.readField (.line l .fbLevel) = BitVec.ofNat 32 (c.lines.get l).fb.level ∧
      c.readField (.line l .fbRdPtr) = BitVec.ofNat 32 (c.lines.get l).fb.rd) ∧
    c.readField (.chan .cs) = c.cs.bits ∧ c.readField (.chan .lineCount) = c.regs.lateLineCount ∧
    c.readField (.chan .nomLine) = c.nomLine.bits ∧ c.readField (.chan .decaySamples) = c.decaySamples.bits ∧
    ∀ (k : Fin 36) (x : F32), c.lineVec[k.val]? = some x → c.readField (.chan (.lineVec k)) = x.bits)

/-- WDER (46_diagnostic.md R504): the field takes the clamped value in each selected channel; SD, AMT and RATE refresh
their tap, PHASE does not. Which fields may be written, and the clamp of each, are those of the field tables
(46_diagnostic.md R501). A G written into a stage lasts until the next derive of its diffuser, by a register of its group, its
seed or CROSS_SEED, which rewrites it from the feedback register (which value it takes is assumption log 23). -/
def Obligations.WderWritesField : Prop :=
  (∀ (ch : BitVec 2) (sel n : BitVec 12) (value : Word) (u : UnitRef) (f : FieldRef) (v : Word) (s : State)
      (rest : List Word), ch ≠ 0 → UnitRef.ofSel sel = some u → FieldRef.ofN u n = some f →
    f.writeType.accept value = .ok v → s.cmdFifo = encode (.wder ch sel n value) ++ rest →
    exec (.wder ch sel n value) s = .next ((s.mapped ch (fun _ c => c.writeField f v)).completed 2 rest)) ∧
  (∀ (value : Word) (s : State) (rest : List Word), s.cmdFifo = encode (.wder 0 0xF00 0 value) ++ rest →
    exec (.wder 0 0xF00 0 value) s = .next (State.completed { s with x := value } 2 rest)) ∧
  (∀ (c : Channel) (f : FieldRef) (w v : Word), f.writeType.accept w = .ok v → (c.writeField f v).readField f = v) ∧
  (∀ (c : Channel) (r : MdlyRef) (v : Word),
    c.writeField (.mdly r .sd) v = c.setMdly r (Tap.refresh 192000 { c.mdly r with sd := v.toNat }) ∧
    c.writeField (.mdly r .amt) v = c.setMdly r (Tap.refresh 192000 { c.mdly r with amt := ⟨v⟩ }) ∧
    c.writeField (.mdly r .rate) v = c.setMdly r (Tap.refresh 192000 { c.mdly r with rate := ⟨v⟩ }) ∧
    c.writeField (.mdly r .phase) v = c.setMdly r { c.mdly r with phase := ⟨v⟩ }) ∧
  (∀ (c : Channel) (d : DiffRef) (k : Fin 12) (v : Word),
    c.writeField (.apf d k (.tap .sd)) v =
      c.setApf d k { c.apf d k with tap := Tap.refresh 19202 { (c.apf d k).tap with sd := v.toNat } } ∧
    c.writeField (.apf d k (.tap .amt)) v =
      c.setApf d k { c.apf d k with tap := Tap.refresh 19202 { (c.apf d k).tap with amt := ⟨v⟩ } } ∧
    c.writeField (.apf d k (.tap .rate)) v =
      c.setApf d k { c.apf d k with tap := Tap.refresh 19202 { (c.apf d k).tap with rate := ⟨v⟩ } } ∧
    c.writeField (.apf d k (.tap .phase)) v =
      c.setApf d k { c.apf d k with tap := { (c.apf d k).tap with phase := ⟨v⟩ } }) ∧
  (∀ (ch : BitVec 2) (n : BitVec 12) (value : Word), ch ≠ 0 → Refuses (.wder ch 0xF00 n value) .badCh) ∧
  (∀ (sel n : BitVec 12) (value : Word), sel ≠ 0xF00 → Refuses (.wder 0 sel n value) .badCh) ∧
  (∀ (ch : BitVec 2) (sel n : BitVec 12) (value : Word), sel ≠ 0xF00 → ch ≠ 0 → UnitRef.ofSel sel = none →
    Refuses (.wder ch sel n value) .badSel) ∧
  (∀ (ch : BitVec 2) (sel n : BitVec 12) (value : Word) (u : UnitRef), ch ≠ 0 → UnitRef.ofSel sel = some u →
    (FieldRef.ofN u n = none ∨ ∃ f, FieldRef.ofN u n = some f ∧ f.writeType = .readOnly) →
    Refuses (.wder ch sel n value) .badField) ∧
  (∀ (n : BitVec 12) (value : Word), n ≠ 0 → Refuses (.wder 0 0xF00 n value) .badField) ∧
  (∀ (ch : BitVec 2) (sel n : BitVec 12) (value : Word) (u : UnitRef) (f : FieldRef), ch ≠ 0 →
    UnitRef.ofSel sel = some u → FieldRef.ofN u n = some f →
    (f.writeType = .anyFloat ∨ ∃ lo hi, f.writeType = .float lo hi) → F32.isNaN ⟨value⟩ = true →
    Refuses (.wder ch sel n value) .badValue) ∧
  (∀ (T : Transc) (fs : F32) (k : Chan) (r : CReg) (v : Word) (c : Channel) (j : Fin 12),
    (r ∈ [.edifDelayMs, .edifModAmtMs, .edifModRateHz, .seedDiffusion, .crossSeed] →
      ((c.writeReg T fs k r v).apf .ed j).g = c.regs.edifFeedback) ∧
    (r ∈ [.lateDifDelayMs, .lateDifModAmtMs, .lateDifModRateHz, .seedPostdiffusion, .crossSeed] →
      ∀ l : Fin 12, ((c.writeReg T fs k r v).apf (.line l) j).g = c.regs.lateDifFeedback)) ∧
  (∀ f : FieldRef, f.writeType = fieldClamp f) ∧
  (∀ (f : FieldRef) (w : Word), f.writeType.accept w =
    match f.writeType with
    | .readOnly => .error .badField
    | .anyFloat => if F32.isNaN ⟨w⟩ then .error .badValue else .ok w
    | .float lo hi =>
      if F32.isNaN ⟨w⟩ then .error .badValue
      else if F32.lt lo ⟨w⟩ then .ok (if F32.lt ⟨w⟩ hi then w else hi.bits)
      else .ok (if F32.lt lo hi then lo.bits else hi.bits)
    | .unsigned lo hi => .ok (BitVec.ofNat 32 (min (max w.toNat lo) hi)))

/-- The frame of a field write: every other field of every unit of the channel stays, but for the tap values that a
write of SD, AMT or RATE refreshes (46_diagnostic.md R504; 42_allpass_delay.md R300, R301). -/
def Obligations.FieldWriteFrame : Prop :=
  ∀ (c : Channel) (f g : FieldRef) (w v : Word), f.writeType.accept w = .ok v → g ≠ f → f.refreshes g = false →
    (c.writeField f v).readField g = c.readField g ∧ (c.writeField f v).regs = c.regs

/-- Unit numbers: each unit has the number of the table, and every number not listed names no unit (46_diagnostic.md
R500). -/
def Obligations.UnitNumbers : Prop :=
  (∀ (sel : BitVec 12) (u : UnitRef), UnitRef.ofSel sel = some u ↔ sel.toNat = unitNumber u) ∧ rngSel.toNat = 0xF00

/-! ### Units -/

/-- The sample steps: the one-pole with its zero snap and its high-pass output (41_filters.md R251, R252); the biquad
(R262); the LFO part of a modulated read, which only counts between updates and advances the phase, takes its sine and
refreshes the tap at an update (42_allpass_delay.md R302, R304); the all-pass stage, unmodulated and modulated (R303,
R305), and the plain delay (R306), on the tap so advanced; a diffuser's active stages in series, each one's output feeding
the next, and its stages at and beyond COUNT frozen (R312); the multi-tap, which writes before it reads and sums its taps in
ascending order from +0 (43_multitap.md R363). -/
def Obligations.UnitSteps : Prop :=
  (∀ (u : OnePole) (x : F32), ∃ y : F32,
    y = (if (x.bits = 0x00000000 ∨ x.bits = 0x80000000) ∧ F32.lt (F32.abs u.y) ⟨0x33D6BF95⟩ = true then ⟨0x00000000⟩
      else F32.add (F32.mul u.b0 x) (F32.mul u.a1 u.y)) ∧
    u.step x = ({ u with y := y }, if u.highPass then F32.sub x y else y)) ∧
  (∀ (u : Biquad) (x : F32),
    (u.step x).2 = F32.sub (F32.sub (F32.add (F32.add (F32.mul u.b0 x) (F32.mul u.b1 u.x1)) (F32.mul u.b2 u.x2))
      (F32.mul u.a1 u.y1)) (F32.mul u.a2 u.y2) ∧
    (u.step x).1 = { u with x2 := u.x1, x1 := x, y2 := u.y1, y1 := (u.step x).2 }) ∧
  (∀ (T : Transc) (n : Nat) (t : Tap), t.counter < 8 → t.advance T n = { t with counter := t.counter + 1 }) ∧
  (∀ (T : Transc) (n : Nat) (t : Tap), 8 ≤ t.counter → ∃ p q : F32,
    p = F32.add t.phase (F32.mul t.rate ⟨0x41000000⟩) ∧
      q = (if F32.ge p ⟨0x3F800000⟩ then F32.sub p (F32.ofInt p.floor) else p) ∧
      t.advance T n =
        { Tap.refresh n { t with phase := q, mod := T.sin32 (F32.mul ⟨0x40C90FDB⟩ q) } with counter := 1 }) ∧
  (∀ (T : Transc) (i : Bool) (u : Apf) (x : F32), u.tap.inRange 19202 = true → u.tap.buf.wf = true → u.modEn = false →
    ∃ (r vin : F32) (b : Buf), r = Buf.get u.tap.buf ((u.tap.widx + 19202 - u.tap.sd) % 19202) ∧
      vin = F32.add x (F32.mul r u.g) ∧
      u.step T i x = ({ u with tap := { u.tap with buf := b, widx := (u.tap.widx + 1) % 19202 } },
        F32.sub r (F32.mul vin u.g)) ∧
      ∀ k : Nat, Buf.get b k = if k = u.tap.widx then vin else Buf.get u.tap.buf k) ∧
  (∀ (T : Transc) (i : Bool) (u : Apf) (x : F32), u.tap.inRange 19202 = true → u.tap.buf.wf = true → u.modEn = true →
    ∃ (t : Tap) (p q r vin : F32) (b : Buf), t = u.tap.advance T 19202 ∧
      p = Buf.get u.tap.buf ((u.tap.widx + 19202 - t.da) % 19202) ∧
      q = Buf.get u.tap.buf ((u.tap.widx + 19202 - t.db) % 19202) ∧
      r = (if i then F32.add (F32.mul p t.ga) (F32.mul q t.gb) else p) ∧ vin = F32.add x (F32.mul r u.g) ∧
      u.step T i x = ({ u with tap := { t with buf := b, widx := (u.tap.widx + 1) % 19202 } },
        F32.sub r (F32.mul vin u.g)) ∧
      ∀ k : Nat, Buf.get b k = if k = u.tap.widx then vin else Buf.get u.tap.buf k) ∧
  (∀ (T : Transc) (i : Bool) (t : Tap) (x : F32), t.inRange 192000 = true → t.buf.wf = true →
    ∃ (t' : Tap) (p q : F32) (b : Buf), t' = t.advance T 192000 ∧
      p = Buf.get t.buf ((t.widx + 192000 - t'.da) % 192000) ∧
      q = Buf.get t.buf ((t.widx + 192000 - t'.db) % 192000) ∧
      t.step T i x = ({ t' with buf := b, widx := (t.widx + 1) % 192000 },
        if i then F32.add (F32.mul p t'.ga) (F32.mul q t'.gb) else p) ∧
      ∀ k : Nat, Buf.get b k = if k = t.widx then x else Buf.get t.buf k) ∧
  (∀ (T : Transc) (i : Bool) (d : Diff) (x : F32), d.count ≤ 12 → ∃ y : Nat → F32, y 0 = x ∧
    (∀ k : Fin 12, k.val < d.count →
      (d.stages.get k).step T i (y k) = ((d.step T i x).1.stages.get k, y (k + 1))) ∧
    (d.step T i x).2 = y d.count) ∧
  (∀ (T : Transc) (i : Bool) (d : Diff) (x : F32), { (d.step T i x).1 with stages := d.stages } = d ∧
    ∀ k : Fin 12, d.count ≤ k.val → (d.step T i x).1.stages.get k = d.stages.get k) ∧
  (∀ (m : Mt) (x : F32), m.buf.wf = true → m.widx < 192000 → ∃ b : Buf,
    (m.step x).1 = { m with buf := b, widx := (m.widx + 1) % 192000 } ∧
    (∀ k : Nat, Buf.get b k = if k = m.widx then x else Buf.get m.buf k) ∧
    (m.step x).2 = (List.range m.count).foldl (fun y j => F32.add y
      (F32.mul (Buf.get b (((m.widx : Int) - m.idx.getD j 0) % 192000).toNat) (m.w.getD j ⟨0x00000000⟩)))
        ⟨0x00000000⟩)

/-- refresh: the total delay SD + min(AMT, SD - 1)·MOD, brought to at least 1 and at most N - 2, is split into its floor
DA and its fraction GB, with GA = 1 - GB and DB = DA + 1. Both taps lie inside the buffer and off the cell being written,
whatever the tap holds, and only DA, DB, GA and GB change. With the two worked examples of the rule (42_allpass_delay.md
R301). -/
def Obligations.RefreshBounds : Prop :=
  ∀ (n : Nat) (t : Tap), n = 19202 ∨ n = 192000 →
    1 ≤ (t.refresh n).da ∧ (t.refresh n).da ≤ n - 2 ∧ 2 ≤ (t.refresh n).db ∧ (t.refresh n).db ≤ n - 1 ∧
    (t.refresh n).db = (t.refresh n).da + 1 ∧
    { t.refresh n with da := t.da, db := t.db, ga := t.ga, gb := t.gb } = t ∧
    (∃ amt sum low td : F32,
      amt = (if F32.lt t.amt (F32.ofInt ((t.sd : Int) - 1)) then t.amt else F32.ofInt ((t.sd : Int) - 1)) ∧
      sum = F32.add (F32.ofNat t.sd) (F32.mul amt t.mod) ∧
      low = (if F32.lt ⟨0x3F800000⟩ sum then sum else ⟨0x3F800000⟩) ∧
      td = (if F32.lt low (F32.ofNat (n - 2)) then low else F32.ofNat (n - 2)) ∧
      ((t.refresh n).da : Int) = td.floor ∧
      (t.refresh n).gb = F32.sub td (F32.ofNat (t.refresh n).da) ∧
      (t.refresh n).ga = F32.sub ⟨0x3F800000⟩ (t.refresh n).gb) ∧
    (t.sd = 3 → t.amt = ⟨0x40A00000⟩ → t.mod = ⟨0xBF800000⟩ →
      (t.refresh n).da = 1 ∧ (t.refresh n).ga = ⟨0x3F800000⟩ ∧ (t.refresh n).gb = ⟨0x00000000⟩) ∧
    (t.sd = 10 → t.amt = ⟨0x40100000⟩ → t.mod = ⟨0x3F000000⟩ →
      (t.refresh n).da = 11 ∧ (t.refresh n).db = 12 ∧ (t.refresh n).ga = ⟨0x3F600000⟩ ∧
        (t.refresh n).gb = ⟨0x3E000000⟩)

/-- The feedback FIFO is a queue: a push appends, a pop takes from the front and gives +0 on underflow
(44_fdn_channel.md R390); a line block leaves LEVEL at the larger of what it was and the block length, and gives as many
outputs as inputs (R391, R398). -/
def Obligations.FifoQueue : Prop :=
  (∀ (f : Fifo) (v : List F32) (n : Nat), f.rd < 2048 → f.cells.wf = true → f.level + v.length ≤ 2048 →
    (f.push v).contents = f.contents ++ v ∧
    (Fifo.pop n f).1.contents = f.contents.drop n ∧
    (Fifo.pop n f).2 = (f.contents ++ List.replicate n F32.zero).take n) ∧
  (∀ (T : Transc) (i : Bool) (r : ChanRegs) (l : Line) (e : List F32), l.fb.level ≤ 1024 → e.length ≤ 1024 →
    (l.block T i r e).1.fb.level = max l.fb.level e.length ∧ (l.block T i r e).2.length = e.length)

/-- What a block runs and what it leaves frozen. A channel block runs the conditioning filters, the squelch, PRE, the
multi-tap and the early diffuser in that order, each enabled one on the output of the one before; every line below
LATE_LINE_COUNT on the early signal; the sum of the lines' outputs in ascending order from +0, times 1/sqrt(count); and the
output mix of the dry, the early and the late signal. Units whose enable is 0, the lines at and beyond LATE_LINE_COUNT, BQX,
the registers and the derived values stay as they are (44_fdn_channel.md R395). A line block pops its feedback, mixes it in,
runs its delay and its enabled sub-units in order, pushes the result, and answers at its tap point; a disabled sub-unit is
frozen (R391). -/
def Obligations.FrozenUnits : Prop :=
  (∀ (T : Transc) (i : Bool) (c : Channel) (u : List F32),
    (c.block T i u).1.regs = c.regs ∧ (c.block T i u).1.bqx = c.bqx ∧ (c.block T i u).1.cs = c.cs ∧
    (c.block T i u).1.lineVec = c.lineVec ∧ (c.block T i u).1.nomLine = c.nomLine ∧
    (c.block T i u).1.decaySamples = c.decaySamples ∧
    (c.regs.lowcutEn = false → (c.block T i u).1.hpc = c.hpc) ∧
    (c.regs.highcutEn = false → (c.block T i u).1.lpc = c.lpc) ∧
    (c.regs.tapEn = false → (c.block T i u).1.mt = c.mt) ∧
    (c.regs.edifEn = false → (c.block T i u).1.ed = c.ed) ∧
    (∀ l : Fin 12, c.regs.lateLineCount.toNat ≤ l.val → (c.block T i u).1.lines.get l = c.lines.get l)) ∧
  (∀ (T : Transc) (i : Bool) (c d : Channel) (u out : List F32), c.block T i u = (d, out) →
    ∃ (x1 x2 e1 e2 e : List F32) (norm : F32),
      (d.hpc, x1) = (if c.regs.lowcutEn then runBlock OnePole.step c.hpc u else (c.hpc, u)) ∧
      (d.lpc, x2) = (if c.regs.highcutEn then runBlock OnePole.step c.lpc x1 else (c.lpc, x1)) ∧
      (d.pre, e1) = runBlock (Tap.step T i) c.pre
        (x2.map (fun x => if F32.lt (F32.mul x x) ⟨0x3089705F⟩ then ⟨0x00000000⟩ else x)) ∧
      (d.mt, e2) = (if c.regs.tapEn then runBlock Mt.step c.mt e1 else (c.mt, e1)) ∧
      (d.ed, e) = (if c.regs.edifEn then runBlock (Diff.step T i) c.ed e2 else (c.ed, e2)) ∧
      (∀ l : Fin 12, l.val < c.regs.lateLineCount.toNat →
        d.lines.get l = ((c.lines.get l).block T i c.regs e).1) ∧
      norm = F32.div ⟨0x3F800000⟩ (F32.sqrt (F32.ofNat c.regs.lateLineCount.toNat)) ∧
      out.length = u.length ∧ e.length = u.length ∧
      ∀ (j : Nat) (a b : F32), u[j]? = some a → e[j]? = some b → ∃ s : F32,
        s = ((List.finRange 12).filter (fun l => decide (l.val < c.regs.lateLineCount.toNat))).foldl
          (fun s l => F32.add s (((c.lines.get l).block T i c.regs e).2.getD j ⟨0x00000000⟩)) ⟨0x00000000⟩ ∧
        out[j]? = some (F32.add (F32.add (F32.mul c.regs.dryOut a) (F32.mul c.regs.earlyOut b))
          (F32.mul c.regs.lateOut (F32.mul s norm)))) ∧
  (∀ (T : Transc) (i : Bool) (r : ChanRegs) (l m : Line) (e y : List F32), l.block T i r e = (m, y) →
    ∃ t1 t2 t3 t4 t5 : List F32,
      (m.mdly, t1) = runBlock (Tap.step T i) l.mdly
        (List.zipWith (fun a b => F32.add a (F32.mul b l.gain)) e (Fifo.pop e.length l.fb).2) ∧
      (m.dif, t2) = (if r.lateDifEn then runBlock (Diff.step T i) l.dif t1 else (l.dif, t1)) ∧
      (m.lsh, t3) = (if r.eqLshEn then runBlock Biquad.step l.lsh t2 else (l.lsh, t2)) ∧
      (m.hsh, t4) = (if r.eqHshEn then runBlock Biquad.step l.hsh t3 else (l.hsh, t3)) ∧
      (m.damp, t5) = (if r.eqLpEn then runBlock OnePole.step l.damp t4 else (l.damp, t4)) ∧
      m.fb = (Fifo.pop e.length l.fb).1.push t5 ∧ m.gain = l.gain ∧
      y = if r.lateTapPost then t5 else t1)

/-- Chunking: where the FIFO of every line that runs holds at least a block's samples, running a channel block in two
parts gives the same outputs and the same state as running it at once (44_fdn_channel.md R399; without the premise it does
not hold, R398 and 90_conflicts.md C11). -/
def Obligations.ChunkingInvariance : Prop :=
  ∀ (T : Transc) (i : Bool) (c : Channel) (u v : List F32),
    (∀ l : Fin 12, l.val < c.regs.lateLineCount.toNat →
      u.length + v.length ≤ (c.lines.get l).fb.level ∧ (c.lines.get l).fb.level ≤ 2048 ∧
        (c.lines.get l).fb.rd < 2048 ∧ (c.lines.get l).fb.cells.wf = true) →
    c.block T i (u ++ v) =
      (((c.block T i u).1.block T i v).1, (c.block T i u).2 ++ ((c.block T i u).1.block T i v).2)

/-! ### The host -/

/-- Bus errors (20_memory.md R124): a misaligned access, one that is not 32 bits wide and one to an unmapped address
return 0 or store nothing, set IP.BUSERR and change nothing else. -/
def Obligations.BusErrorOnlySetsBit : Prop :=
  ∀ (T : Transc) (width : Width) (addr : BitVec 18) (w : Word) (s : State), isBusError width addr →
    hostAccess T (.read width addr) s = .next { s with ip := s.ip ||| 0b100000, hostReads := s.hostReads ++ [0] } ∧
    hostAccess T (.write width addr w) s = .next { s with ip := s.ip ||| 0b100000 }

/-- A host read that is no bus error and not of RSP changes nothing: it returns a word, and no state of the machine
differs after it (20_memory.md R125; what the read returned, the draws and the note of a lost command word are the model's
own fields, assumption logs 4, 5 and 12: the note changes only where a read of IP shows CMDOVF). -/
def Obligations.ReadsArePure : Prop :=
  ∀ (T : Transc) (width : Width) (addr : BitVec 18) (s t : State), ¬ isBusError width addr → addr.toNat ≠ 0x1C →
    hostAccess T (.read width addr) s = .next t →
    ∃ (v : Word) (d : Nat) (l : CmdLoss), t = { s with hostReads := s.hostReads ++ [v], draws := d, cmdLoss := l } ∧
      (l = s.cmdLoss ∨ (addr.toNat = 0x14 ∧ s.ip.getLsbD 3 = true ∧ s.cmdLoss = .unseen ∧ l = .seen))

/-- The words the host register block returns, and its plain writes: IE is read/write, IP is write-1-to-clear, and a write
to a read-only register is ignored (10_state.md R42, R43, R46-R49); the output IRQ is 1 exactly while an IP bit is set
whose IE bit is set (R46). After a dropped CMD word, until the host has checked and recovered, a read of the error record,
of CP or of a FIFO level is a free value, and so is every bit of STATUS but those that read 0 and every bit of IP but CMDOVF
and BUSERR; a read of IP that shows CMDOVF is the check (70_reset_and_hazards.md R621; the model's choice of which reads,
assumption log 12). -/
def Obligations.HostRegisters : Prop :=
  (∀ (T : Transc) (s : State),
    hostAccess T (.read .word 0x00) s = .next { s with hostReads := s.hostReads ++ [0x43534331] } ∧
    hostAccess T (.read .word 0x04) s = .next { s with hostReads := s.hostReads ++ [0x00010000] } ∧
    hostAccess T (.read .word 0x0C) s = .next { s with hostReads := s.hostReads ++ [0] } ∧
    hostAccess T (.read .word 0x10) s = .next { s with hostReads := s.hostReads ++ [s.ie.setWidth 32] } ∧
    hostAccess T (.read .word 0x18) s = .next { s with hostReads := s.hostReads ++ [0] }) ∧
  (∀ (T : Transc) (s : State), s.cmdLost = false →
    hostAccess T (.read .word 0x08) s = .next { s with hostReads := s.hostReads ++ [s.status] } ∧
    hostAccess T (.read .word 0x14) s = .next { s with hostReads := s.hostReads ++ [s.ip.setWidth 32] } ∧
    hostAccess T (.read .word 0x30) s =
      .next { s with hostReads := s.hostReads ++ [BitVec.ofNat 32 s.cmdFifo.length] } ∧
    hostAccess T (.read .word 0x34) s =
      .next { s with hostReads := s.hostReads ++ [BitVec.ofNat 32 s.rspFifo.length] } ∧
    hostAccess T (.read .word 0x20) s = .next { s with hostReads := s.hostReads ++ [s.errCauseWord] } ∧
    hostAccess T (.read .word 0x24) s = .next { s with hostReads := s.hostReads ++ [s.errCmd] } ∧
    hostAccess T (.read .word 0x28) s = .next { s with hostReads := s.hostReads ++ [s.errCp] } ∧
    hostAccess T (.read .word 0x2C) s = .next { s with hostReads := s.hostReads ++ [s.cp] }) ∧
  (∀ (T : Transc) (s : State) (a : BitVec 18), s.cmdLost = true → a.toNat ∈ [0x20, 0x24, 0x28, 0x2C, 0x30, 0x34] →
    hostAccess T (.read .word a) s =
      .next { s with hostReads := s.hostReads ++ [Config.draw s.draws], draws := s.draws + 1 }) ∧
  (∀ (T : Transc) (s : State), s.cmdLost = true →
    hostAccess T (.read .word 0x08) s = .next { s with
      hostReads := s.hostReads ++ [Config.draw s.draws &&& 0x7F]
      draws := s.draws + 1 } ∧
    hostAccess T (.read .word 0x14) s = .next { s with
      hostReads := s.hostReads ++ [(s.ip &&& 0b101000).setWidth 32 ||| (Config.draw s.draws &&& 0b010111)]
      draws := s.draws + 1
      cmdLoss := if s.ip.getLsbD 3 then .seen else s.cmdLoss }) ∧
  (∀ s : State, s.irq = true ↔ ∃ j : Nat, s.ie.getLsbD j = true ∧ s.ip.getLsbD j = true) ∧
  (∀ (T : Transc) (s : State) (w : Word),
    hostAccess T (.write .word 0x10 w) s = .next { s with ie := w.setWidth 6 } ∧
    hostAccess T (.write .word 0x14 w) s = .next { s with ip := s.ip &&& ~~~(w.setWidth 6) } ∧
    (∀ a : BitVec 18, a.toNat ∈ [0x00, 0x04, 0x08, 0x1C, 0x20, 0x24, 0x28, 0x2C, 0x30, 0x34] →
      hostAccess T (.write .word a w) s = .next s))

/-- STATUS, bit by bit, in a state whose FIFOs hold at most their depth; reading it has no side effect, and a write to
it is ignored (10_state.md R44). What a read returns while a command word is lost is in HostRegisters (assumption log
12). -/
def Obligations.StatusBits : Prop :=
  (∀ (T : Transc) (s : State) (w : Word),
    (s.cmdLost = false →
      hostAccess T (.read .word 0x08) s = .next { s with hostReads := s.hostReads ++ [s.status] }) ∧
    hostAccess T (.write .word 0x08 w) s = .next s) ∧
  ∀ s : State, s.fifosBounded = true →
    (s.status.getLsbD 0 = true ↔ s.cmdFifo ≠ []) ∧
    (s.status.getLsbD 1 = s.halt) ∧
    (s.status.getLsbD 2 = true ↔ s.cmdFifo.length = 256) ∧
    (s.status.getLsbD 3 = true ↔ s.rspFifo ≠ []) ∧
    (s.status.getLsbD 4 = true ↔ s.rspFifo.length = 64) ∧
    (s.status.getLsbD 5 = true ↔ s.halt = false ∧ ∃ w ws, s.cmdFifo = w :: ws ∧
      s.cmdFifo.length < lengthOfOp (opOf w)) ∧
    (s.status.getLsbD 6 = true ↔ s.halt = false ∧ s.rspFifo.length = 64 ∧
      ∃ i rest, s.cmdFifo = encode i ++ rest ∧ responds i = true) ∧
    (∀ k, 7 ≤ k → s.status.getLsbD k = false)

/-- The CMD and RSP ports (10_state.md R49). A drop is noted, and until the host has checked and recovered what a read of
RSP returns is a free value, whether the response FIFO is empty or not (the model's choice, assumption log 12). -/
def Obligations.PortsQueueWords : Prop :=
  (∀ (T : Transc) (s : State) (w : Word), s.cmdFifo.length < 256 →
    hostAccess T (.write .word 0x18 w) s = .next { s with cmdFifo := s.cmdFifo ++ [w] }) ∧
  (∀ (T : Transc) (s : State) (w : Word), s.cmdFifo.length = 256 →
    hostAccess T (.write .word 0x18 w) s = .next { s with ip := s.ip ||| 0b001000, cmdLoss := .unseen }) ∧
  (∀ (T : Transc) (s : State) (v : Word) (rest : List Word), s.rspFifo = v :: rest → s.cmdLost = false →
    hostAccess T (.read .word 0x1C) s = .next { s with rspFifo := rest, hostReads := s.hostReads ++ [v] }) ∧
  (∀ (T : Transc) (s : State) (v : Word) (rest : List Word), s.rspFifo = v :: rest → s.cmdLost = true →
    hostAccess T (.read .word 0x1C) s =
      .next { s with rspFifo := rest, hostReads := s.hostReads ++ [Config.draw s.draws], draws := s.draws + 1 }) ∧
  (∀ (T : Transc) (s : State), s.rspFifo = [] → s.cmdLost = false →
    hostAccess T (.read .word 0x1C) s = .next { s with ip := s.ip ||| 0b010000, hostReads := s.hostReads ++ [0] }) ∧
  (∀ (T : Transc) (s : State), s.rspFifo = [] → s.cmdLost = true →
    hostAccess T (.read .word 0x1C) s = .next { s with
      ip := s.ip ||| 0b010000
      hostReads := s.hostReads ++ [Config.draw s.draws]
      draws := s.draws + 1 })

/-- CTRL: soft reset alone, or CMDFLUSH, RSPFLUSH and ERRCLR in this order (10_state.md R45, 60_exceptions.md R546,
70_reset_and_hazards.md R600). A soft reset keeps the memory contents and the model's own script, reads and draws
(assumption logs 7 and 10). It takes back the note of a dropped CMD word, and so do CMDFLUSH and ERRCLR in one write of a
host that has read IP.CMDOVF = 1, and nothing else (70_reset_and_hazards.md R621; log 12). -/
def Obligations.CtrlResetsFlushesClears : Prop :=
  ∀ (T : Transc) (s : State) (w : Word),
    (w.getLsbD 0 = true → hostAccess T (.write .word 0x0C w) s =
      .next { State.resetWith T with mem := s.mem, script := s.script, hostReads := s.hostReads, draws := s.draws }) ∧
    (w.getLsbD 0 = false → hostAccess T (.write .word 0x0C w) s = .next { s with
      cmdFifo := if w.getLsbD 2 then [] else s.cmdFifo
      ip := if w.getLsbD 2 && !s.cmdFifo.isEmpty then s.ip ||| 0b000100 else s.ip
      rspFifo := if w.getLsbD 3 then [] else s.rspFifo
      halt := if w.getLsbD 1 then false else s.halt
      errCause := if w.getLsbD 1 then none else s.errCause
      errCmd := if w.getLsbD 1 then 0 else s.errCmd
      errCp := if w.getLsbD 1 then 0 else s.errCp
      cmdLoss := if w.getLsbD 1 && w.getLsbD 2 && s.cmdLoss == .seen then .none else s.cmdLoss })

/-- Region ownership (20_memory.md R133, 70_reset_and_hazards.md R620): while a PROC, UPROC, VGEN or VGENX is pending
anywhere in the FIFO, a host write to a word it reads and a host read or write of a word it writes is the fault
HAZARD. That a command owns these words even when it will be refused with an error, as a UPROC of an undefined unit is, is
the model's choice (assumption log 9). -/
def Obligations.OwnedAccessIsHazard : Prop :=
  (∀ (T : Transc) (s : State) (before : List Instr) (n : BitVec 12) (rest : List Word) (k : Nat) (c : Chan) (w : Word),
    s.cmdFifo = before.flatMap encode ++ encode (.proc 0 0 n) ++ rest → n.toNat ≤ 1024 → k < n.toNat →
    hostAccess T (.write .word (BitVec.ofNat 18 (inBase c + 4 * k)) w) s = .fault .hazard ∧
    hostAccess T (.write .word (BitVec.ofNat 18 (outBase c + 4 * k)) w) s = .fault .hazard ∧
    hostAccess T (.read .word (BitVec.ofNat 18 (outBase c + 4 * k))) s = .fault .hazard) ∧
  (∀ (T : Transc) (s : State) (before : List Instr) (sel n : BitVec 12) (rest : List Word) (k : Nat) (c : Chan)
      (w : Word), s.cmdFifo = before.flatMap encode ++ encode (.uproc (maskOf c) sel n) ++ rest → n.toNat ≤ 1024 →
    k < n.toNat →
    hostAccess T (.write .word (BitVec.ofNat 18 (inBase c + 4 * k)) w) s = .fault .hazard ∧
    hostAccess T (.write .word (BitVec.ofNat 18 (outBase c + 4 * k)) w) s = .fault .hazard ∧
    hostAccess T (.read .word (BitVec.ofNat 18 (outBase c + 4 * k))) s = .fault .hazard) ∧
  (∀ (T : Transc) (s : State) (before : List Instr) (i : Instr) (n : BitVec 12) (rest : List Word) (k : Nat) (w : Word),
    s.cmdFifo = before.flatMap encode ++ encode i ++ rest →
    ((∃ seed, i = .vgen 0 0 n seed) ∨ ∃ seed cs, i = .vgenx 0 0 n seed cs) → n.toNat ≤ 1024 → k < n.toNat →
    hostAccess T (.write .word (BitVec.ofNat 18 (0x20000 + 4 * k)) w) s = .fault .hazard ∧
    hostAccess T (.read .word (BitVec.ofNat 18 (0x20000 + 4 * k))) s = .fault .hazard)

/-- The accesses ownership allows (20_memory.md R133): every access completes while the command FIFO is empty; whatever
commands are pending, a host read of a word that none of them writes and a host write of a word that none of them reads or
writes complete, and so do a host read of an IN word and every access to the host register block; no access ends in
anything but a next state or HAZARD (70_reset_and_hazards.md R620). Pending are the commands and the illegal words in the
FIFO, and the last command even while words of it are missing; that a command owns its words even when it will be refused
is the model's choice (assumption log 9). -/
def Obligations.AllowedAccessCompletes : Prop :=
  (∀ (T : Transc) (s : State) (a : HostAccess), s.cmdFifo = [] → ∃ t, hostAccess T a s = .next t) ∧
  (∀ (T : Transc) (s : State) (c : Chan) (k : Nat), k < 1024 →
    ∃ t, hostAccess T (.read .word (BitVec.ofNat 18 (inBase c + 4 * k))) s = .next t) ∧
  (∀ (T : Transc) (s : State) (width : Width) (addr : BitVec 18) (w : Word), addr.toNat < 0x10000 →
    (∃ t, hostAccess T (.read width addr) s = .next t) ∧ ∃ t, hostAccess T (.write width addr w) s = .next t) ∧
  (∀ (T : Transc) (s : State) (items : List (List Word)) (pending : List Instr) (last : Instr) (m : Nat)
      (a : BitVec 18), s.cmdFifo = items.flatten ++ (encode last).take m →
    (∀ p ∈ items, (∃ i ∈ pending, p = encode i) ∨ ∃ w, illegalOp (opOf w) ∧ p = [w]) →
    (∀ i ∈ last :: pending, ¬ writesWord i a.toNat) →
    (∃ t, hostAccess T (.read .word a) s = .next t) ∧
      ((∀ i ∈ last :: pending, ¬ readsWord i a.toNat) → ∀ w : Word, ∃ t, hostAccess T (.write .word a w) s = .next t)) ∧
  (∀ (T : Transc) (s : State) (a : HostAccess), (∃ t, hostAccess T a s = .next t) ∨ hostAccess T a s = .fault .hazard)

/-- The sample and vector memories with no command pending: a host write of a mapped word stores it whole, little-endian,
whatever it encodes, leaves every other byte of memory and every other field as it was, and makes an IN word, and no other,
count as written (20_memory.md R122, R125, R126; 70_reset_and_hazards.md R620). A host read answers the word stored there:
always for a written IN word, and for an OUT or VEC word where the core has written it since the last reset; otherwise it
is a draw (10_state.md R71). What a read of a kept IN word, and of an OUT or VEC word the host alone has written, answers
is assumption log 7, and that a dropped CMD word makes OUT and VEC draws is log 12. -/
def Obligations.WriteThenRead : Prop :=
  (∀ (T : Transc) (s : State) (a : BitVec 18) (w : Word), s.cmdFifo = [] → a.toNat % 4 = 0 → mappedAddr a.toNat →
    0x10000 ≤ a.toNat →
    ∃ t, hostAccess T (.write .word a w) s = .next t ∧
      hostAccess T (.read .word a) t =
        .next (if a.toNat < 0x18000 ∨ (a.toNat ∈ s.written ∧ s.cmdLost = false)
          then { t with hostReads := t.hostReads ++ [w] }
          else { t with hostReads := t.hostReads ++ [Config.draw t.draws], draws := t.draws + 1 }) ∧
      t.wordAt a.toNat = some w ∧
      t.mem.readByte a.toNat = some (w.extractLsb' 0 8) ∧ t.mem.readByte (a.toNat + 3) = some (w.extractLsb' 24 8) ∧
      (∀ x : Nat, ¬ (a.toNat ≤ x ∧ x < a.toNat + 4) → t.mem.readByte x = s.mem.readByte x) ∧
      (∀ x : Nat, x ∈ t.written ↔ x ∈ s.written ∨ (x = a.toNat ∧ a.toNat < 0x18000)) ∧
      { t with mem := s.mem, written := s.written } = s) ∧
  (∀ (T : Transc) (s : State) (a : BitVec 18), s.cmdFifo = [] → a.toNat % 4 = 0 → mappedAddr a.toNat →
    0x10000 ≤ a.toNat →
    (∀ v : Word, s.wordAt a.toNat = some v → (a.toNat < 0x18000 ∨ (a.toNat ∈ s.written ∧ s.cmdLost = false)) →
      hostAccess T (.read .word a) s = .next { s with hostReads := s.hostReads ++ [v] }) ∧
    (s.wordAt a.toNat = none ∨ (0x18000 ≤ a.toNat ∧ (a.toNat ∉ s.written ∨ s.cmdLost = true)) →
      hostAccess T (.read .word a) s =
        .next { s with hostReads := s.hostReads ++ [Config.draw s.draws], draws := s.draws + 1 }))

/-! ### Frames and rules of the whole machine -/

/-- Which commands store: every other command leaves every byte of memory and the written set as they were, and a
storing command every byte outside the words it stores (10_state.md R71; 20_memory.md R128). -/
def Obligations.MemoryFrame : Prop :=
  (∀ (i : Instr) (s t : State), stores i = false → exec i s = .next t →
    (∀ a : Nat, t.mem.readByte a = s.mem.readByte a) ∧ t.written = s.written) ∧
  (∀ (ch : BitVec 2) (sel n : BitVec 12) (s t : State), exec (.proc ch sel n) s = .next t → ∀ a : Nat,
    ¬ (0x18000 ≤ a ∧ a < 0x18000 + 4 * n.toNat) → ¬ (0x1C000 ≤ a ∧ a < 0x1C000 + 4 * n.toNat) →
    t.mem.readByte a = s.mem.readByte a) ∧
  (∀ (k : Chan) (sel n : BitVec 12) (s t : State), exec (.uproc (maskOf k) sel n) s = .next t → ∀ a : Nat,
    ¬ (outBase k ≤ a ∧ a < outBase k + 4 * n.toNat) → t.mem.readByte a = s.mem.readByte a) ∧
  (∀ (ch : BitVec 2) (sel n : BitVec 12) (seed : Word) (s t : State), exec (.vgen ch sel n seed) s = .next t →
    ∀ a : Nat, ¬ (0x20000 ≤ a ∧ a < 0x20000 + 4 * n.toNat) → t.mem.readByte a = s.mem.readByte a) ∧
  (∀ (ch : BitVec 2) (sel n : BitVec 12) (seed cs : Word) (s t : State), exec (.vgenx ch sel n seed cs) s = .next t →
    ∀ a : Nat, ¬ (0x20000 ≤ a ∧ a < 0x20000 + 4 * n.toNat) → t.mem.readByte a = s.mem.readByte a)

/-- The registers and units a command may change: the global registers only WREG and SETFS (FS only SETFS), the channel
registers only WREG, a channel only WREG, SETFS, CLEAR, PROC, UPROC and WDER, and with a channel mask no channel outside
the mask (10_state.md R51, R52; 30_encoding.md R162). -/
def Obligations.RegisterFrame : Prop :=
  ∀ (i : Instr) (s t : State), exec i s = .next t →
    ((∀ ch sel n v, i ≠ .wreg ch sel n v) → (∀ ch sel n v, i ≠ .setfs ch sel n v) → t.glob = s.glob) ∧
    ((∀ ch sel n v, i ≠ .setfs ch sel n v) → t.glob.fs = s.glob.fs) ∧
    ((∀ ch sel n v, i ≠ .wreg ch sel n v) → t.chL.regs = s.chL.regs ∧ t.chR.regs = s.chR.regs) ∧
    ((∀ ch sel n v, i ≠ .wreg ch sel n v) → (∀ ch sel n v, i ≠ .setfs ch sel n v) →
      (∀ ch sel n, i ≠ .clear ch sel n) → (∀ ch sel n, i ≠ .proc ch sel n) → (∀ ch sel n, i ≠ .uproc ch sel n) →
      (∀ ch sel n v, i ≠ .wder ch sel n v) → t.chL = s.chL ∧ t.chR = s.chR) ∧
    (∀ (k : Chan) (ch : BitVec 2) (sel n : BitVec 12) (v : Word), maskOf k &&& ch = 0 →
      i = .wreg ch sel n v ∨ i = .clear ch sel n ∨ i = .uproc ch sel n ∨ i = .wder ch sel n v → t.chan k = s.chan k)

/-- What else a command may change: X only RNGSEED, the four draws and WDER; the response FIFO only by one word at its
end, and only by a command that pushes one; HALT and the error record only by an error; IE and the model's own fields
never (10_state.md R47, R49, R70). -/
def Obligations.StateFrame : Prop :=
  ∀ (i : Instr) (s t : State), exec i s = .next t →
    ((∀ ch sel n v, i ≠ .rngseed ch sel n v) → (∀ ch sel n, i ≠ .rngu ch sel n) → (∀ ch sel n, i ≠ .rngi ch sel n) →
      (∀ ch sel n, i ≠ .rngf ch sel n) → (∀ ch sel n, i ≠ .rngb ch sel n) → (∀ ch n v, i ≠ .wder ch 0xF00 n v) →
      t.x = s.x) ∧
    (t.rspFifo = s.rspFifo ∨ (responds i = true ∧ s.rspFifo.length < 64 ∧ ∃ v, t.rspFifo = s.rspFifo ++ [v])) ∧
    (instrError i = none →
      t.halt = s.halt ∧ t.errCause = s.errCause ∧ t.errCmd = s.errCmd ∧ t.errCp = s.errCp) ∧
    t.ie = s.ie ∧ t.script = s.script ∧ t.hostReads = s.hostReads ∧ t.draws = s.draws ∧ t.cmdLoss = s.cmdLoss

/-- Every command ends in a next state, but for the fault UNINIT of PROC and UPROC: no command is refused, and no
command raises HAZARD (60_exceptions.md R540, 70_reset_and_hazards.md R620). -/
def Obligations.OnlyUninit : Prop :=
  ∀ (i : Instr) (s : State),
    (∃ t, exec i s = .next t) ∨
      (exec i s = .fault .uninit ∧ ∃ ch sel n, i = .proc ch sel n ∨ i = .uproc ch sel n)

/-- CP counts command words: a core step that does anything takes the words of the head command off the FIFO and adds
their number to CP, modulo 2^32 (10_state.md R48, R49). -/
def Obligations.CpCountsWords : Prop :=
  ∀ s t : State, coreStep s = .next t →
    t = s ∨ ∃ w ws, s.cmdFifo = w :: ws ∧ lengthOfOp (opOf w) ≤ s.cmdFifo.length ∧
      t.cmdFifo = s.cmdFifo.drop (lengthOfOp (opOf w)) ∧ t.cp = s.cp + BitVec.ofNat 32 (lengthOfOp (opOf w))

/-- An IP bit stays set until the host writes 1 to it or resets: no core step and no other host access clears one
(10_state.md R46). -/
def Obligations.PendingStays : Prop :=
  (∀ s t : State, coreStep s = .next t → s.ip &&& t.ip = s.ip) ∧
  (∀ (T : Transc) (a : HostAccess) (s t : State), hostAccess T a s = .next t →
    (∀ w, a ≠ .write .word 0x14 w) → (∀ w, w.getLsbD 0 = true → a ≠ .write .word 0x0C w) → s.ip &&& t.ip = s.ip)

/-! ### Invariants -/

/-- Every step keeps the memory and the written set in their canonical forms, both FIFOs within their depths
(10_state.md R49), and HALT set exactly while an error is recorded, with an all-zero record otherwise (10_state.md R45,
R47; 60_exceptions.md R547). -/
def Obligations.StepKeepsMemoryFifosRecord : Prop :=
  (∀ s t : State, s.memWf = true → step s = .next t → t.memWf = true) ∧
  (∀ s t : State, s.fifosBounded = true → step s = .next t → t.fifosBounded = true) ∧
  (∀ s t : State, s.errorRecord = true → step s = .next t → t.errorRecord = true)

/-- Every step keeps every stored control register legal for its type (10_state.md R50, R52). -/
def Obligations.StepKeepsRegsLegal : Prop := ∀ s t : State, s.regsLegal = true → step s = .next t → t.regsLegal = true

/-- Every step keeps the unit invariants, whatever the transcendental functions are: no line's feedback coefficient is 1
or more (44_fdn_channel.md R392, R402), every FIFO holds at most one block (R398), and every pointer, delay and counter
is in its range (10_state.md R63, R64, R67; 42_allpass_delay.md R300, R301). Where the control registers are legal, it
keeps every COUNT of a diffuser in 1..12 and of the multi-tap in 1..256 (10_state.md R65, R66). -/
def Obligations.StepKeepsUnitsSound : Prop :=
  (∀ s t : State, s.unitsSound = true → step s = .next t → t.unitsSound = true) ∧
  (∀ s t : State, s.regsLegal = true → s.countsInRange = true → step s = .next t → t.countsInRange = true)

/-- The state after reset meets every one of these invariants. -/
def Obligations.ResetInvariants : Prop :=
  State.reset.memWf = true ∧ State.reset.fifosBounded = true ∧ State.reset.errorRecord = true ∧
    State.reset.regsLegal = true ∧ State.reset.unitsSound = true ∧ State.reset.countsInRange = true

/-! ### Reset -/

/-- What reset leaves: empty FIFOs, CP, X, IE, IP and the error record 0, and every control register at the value of
the table, in both channels (70_reset_and_hazards.md R600; 10_state.md R42, R52, R53, R70). -/
def Obligations.ResetValues : Prop :=
  State.reset.cmdFifo = [] ∧ State.reset.rspFifo = [] ∧ State.reset.cp = 0 ∧ State.reset.x = 0 ∧
  State.reset.ie = 0 ∧ State.reset.ip = 0 ∧ State.reset.halt = false ∧ State.reset.errCauseWord = 0 ∧
  State.reset.errCmd = 0 ∧ State.reset.errCp = 0 ∧ State.reset.status = 0 ∧
  ∀ k : Chan,
    (∀ p ∈ [(0x000, 0x473B8000), (0x001, 0x00000000), (0x002, 1), (0x004, 0), (0x005, 0x447A0000), (0x006, 0x00000000),
        (0x007, 0x3F3504F3), (0x010, 0), (0x011, 0), (0x012, 0x41A00000), (0x013, 0x469C4000), (0x014, 0x3F800000),
        (0x015, 0x00000000), (0x016, 0x00000000), (0x018, 0), (0x019, 1), (0x01A, 0x00000000)],
      (Reg.ofSel (BitVec.ofNat 12 p.1)).map (State.reset.readReg k) = some (BitVec.ofNat 32 p.2)) ∧
    (∀ p ∈ [(0x01B, 0x00000000), (0x01C, 0x00000000), (0x020, 0), (0x021, 1), (0x022, 0x00000000), (0x023, 0x00000000),
        (0x024, 0x00000000), (0x025, 0x00000000), (0x026, 1), (0x028, 0), (0x029, 1), (0x02A, 0), (0x02B, 1),
        (0x02C, 0x00000000), (0x02D, 0x00000000), (0x02E, 0x00000000), (0x02F, 0x00000000), (0x030, 0x00000000)],
      (Reg.ofSel (BitVec.ofNat 12 p.1)).map (State.reset.readReg k) = some (BitVec.ofNat 32 p.2)) ∧
    (∀ p ∈ [(0x031, 0x00000000), (0x032, 0x00000000), (0x033, 0x00000000), (0x034, 1), (0x038, 0), (0x039, 0), (0x03A, 0),
        (0x03B, 0x41A00000), (0x03C, 0x469C4000), (0x03D, 0x469C4000), (0x03E, 0x00000000), (0x03F, 0x00000000),
        (0x040, 0x00000000), (0x041, 0), (0x042, 0), (0x043, 0), (0x044, 0)],
      (Reg.ofSel (BitVec.ofNat 12 p.1)).map (State.reset.readReg k) = some (BitVec.ofNat 32 p.2))

/-- The derived reset values of every unit in both channels, every field the rules list, for the reference instance of the
transcendental functions: the filters, PRE, the multi-tap, the diffusers with all their stages, the lines and CHAN
(10_state.md R61 to R68; 00_scope.md R16; the instance is assumption log 2). The vectors and the multi-tap's gains and
positions are those their seeds and CS generate. -/
def Obligations.ResetUnits : Prop :=
  ∀ (k : Chan) (c : Channel), c = Channel.reset Transc.reference k →
    c.hpc = { highPass := true, cutoff := ⟨0x41A00000⟩, a1 := ⟨0x3F7F56E4⟩, b0 := ⟨0x3B291C00⟩, y := ⟨0x00000000⟩ } ∧
    c.lpc = { highPass := false, cutoff := ⟨0x469C4000⟩, a1 := ⟨0x3E3870B0⟩, b0 := ⟨0x3F51E3D4⟩, y := ⟨0x00000000⟩ } ∧
    c.bqx =
      { type := .lp6, freq := ⟨0x447A0000⟩, gainDb := ⟨0x00000000⟩, q := ⟨0x3F3504F3⟩
        b0 := ⟨0x3DFB4720⟩, b1 := ⟨0x00000000⟩, b2 := ⟨0x00000000⟩, a1 := ⟨0xBF60971C⟩, a2 := ⟨0x00000000⟩
        x1 := ⟨0x00000000⟩, x2 := ⟨0x00000000⟩, y1 := ⟨0x00000000⟩, y2 := ⟨0x00000000⟩ } ∧
    (∀ l : Fin 12,
      (c.lines.get l).damp =
        { highPass := false, cutoff := ⟨0x469C4000⟩, a1 := ⟨0x3E3870B0⟩, b0 := ⟨0x3F51E3D4⟩, y := ⟨0x00000000⟩ } ∧
      (c.lines.get l).lsh =
        { type := .lsh, freq := ⟨0x41A00000⟩, gainDb := ⟨0x00000000⟩, q := ⟨0x3F3504F3⟩
          b0 := ⟨0x3F800000⟩, b1 := ⟨0xBFFF86AE⟩, b2 := ⟨0x3F7F0DCF⟩, a1 := ⟨0xBFFF86AE⟩, a2 := ⟨0x3F7F0DCF⟩
          x1 := ⟨0x00000000⟩, x2 := ⟨0x00000000⟩, y1 := ⟨0x00000000⟩, y2 := ⟨0x00000000⟩ } ∧
      (c.lines.get l).hsh =
        { type := .hsh, freq := ⟨0x469C4000⟩, gainDb := ⟨0x00000000⟩, q := ⟨0x3F3504F3⟩
          b0 := ⟨0x3F800000⟩, b1 := ⟨0x3FA3CB01⟩, b2 := ⟨0x3EF486FD⟩, a1 := ⟨0x3FA3CB01⟩, a2 := ⟨0x3EF486FD⟩
          x1 := ⟨0x00000000⟩, x2 := ⟨0x00000000⟩, y1 := ⟨0x00000000⟩, y2 := ⟨0x00000000⟩ } ∧
      (c.lines.get l).gain = ⟨0x358637BD⟩ ∧ (c.lines.get l).fb = { cells := [], rd := 0, level := 0 } ∧
      (c.lines.get l).mdly =
        { buf := [], widx := 0, sd := 2, amt := ⟨0x00000000⟩, rate := ⟨0x00000000⟩, phase := ⟨0x00000000⟩, counter := 0
          mod := ⟨0x00000000⟩, da := 2, db := 3, ga := ⟨0x3F800000⟩, gb := ⟨0x00000000⟩ } ∧
      (c.lines.get l).dif.seed = BitVec.ofNat 32 (l.val * 0x9E3779B9)) ∧
    c.pre =
      { buf := [], widx := 0, sd := 1, amt := ⟨0x00000000⟩, rate := ⟨0x00000000⟩, phase := ⟨0x00000000⟩, counter := 0
        mod := ⟨0x00000000⟩, da := 1, db := 2, ga := ⟨0x3F800000⟩, gb := ⟨0x00000000⟩ } ∧
    c.ed.seed = 0 ∧
    (∀ d ∈ c.ed :: (List.finRange 12).map (fun l => (c.lines.get l).dif),
      d.count = 1 ∧ d.cs = c.cs ∧ d.vec = generateX d.seed 36 c.cs ∧ d.nomDelay = ⟨0x00000000⟩ ∧
      d.nomAmt = ⟨0x00000000⟩ ∧ d.nomRate = ⟨0x00000000⟩ ∧ d.g = ⟨0x00000000⟩ ∧ d.modEn = true ∧
      ∀ s : Fin 12, d.stages.get s =
        { tap :=
            { buf := [], widx := 0, sd := 1, amt := ⟨0x00000000⟩, rate := ⟨0x00000000⟩, phase := ⟨0x00000000⟩, counter := 0
              mod := ⟨0x00000000⟩, da := 1, db := 2, ga := ⟨0x3F800000⟩, gb := ⟨0x00000000⟩ }
          g := ⟨0x00000000⟩, modEn := true }) ∧
    c.mt.buf = [] ∧ c.mt.widx = 0 ∧ c.mt.count = 1 ∧ c.mt.len = ⟨0x3F800000⟩ ∧ c.mt.decay = ⟨0x00000000⟩ ∧
    c.mt.seed = 0 ∧ c.mt.cs = c.cs ∧ c.mt.gain = (c.mt.reseed Transc.reference 0 c.cs).gain ∧
    c.mt.pos = (c.mt.reseed Transc.reference 0 c.cs).pos ∧ c.mt.idx.getD 0 7 = 0 ∧
    c.mt.w.getD 0 ⟨0x00000000⟩ = (if k = .L then ⟨0x3F6407CB⟩ else ⟨0xBF53BDF1⟩) ∧
    c.cs = (if k = .L then ⟨0x3F800000⟩ else ⟨0x00000000⟩) ∧
    c.nomLine = ⟨0x00000000⟩ ∧ c.decaySamples = ⟨0x3F800000⟩ ∧ c.lineVec = generateX 0 36 c.cs
end

