-- ==== Sys2Proof/Laws/Float.lean ====
section
/-!
SUPPORT. The laws of binary32 comparison, minimum, maximum, clamping and truncation (00_scope.md R10, R12), in terms of
the exact value `val` in units of 2^-149.
-/

namespace Sys2Proof

theorem F32.lt_iff {x y : F32} : F32.lt x y = true ↔ x.isNaN = false ∧ y.isNaN = false ∧ x.val < y.val := by
  simp only [F32.lt, Bool.and_eq_true, Bool.not_eq_eq_eq_not, Bool.not_true, decide_eq_true_eq, and_assoc]

theorem F32.ge_iff {x y : F32} : F32.ge x y = true ↔ x.isNaN = false ∧ y.isNaN = false ∧ y.val ≤ x.val := by
  simp only [F32.ge, Bool.and_eq_true, Bool.not_eq_eq_eq_not, Bool.not_true, decide_eq_true_eq, and_assoc]

/-- The larger of a value and a bound: the bound, or a value above it that is no NaN. -/
theorem F32.max_cases (v lo : F32) :
    F32.max v lo = lo ∨ (F32.max v lo = v ∧ v.isNaN = false ∧ lo.val < v.val) := by
  unfold F32.max
  split
  · rename_i h
    rw [F32.lt_iff] at h
    exact .inr ⟨rfl, h.2.1, h.2.2⟩
  · exact .inl rfl

/-- The smaller of a value and a bound: the bound, or a value below it that is no NaN. -/
theorem F32.min_cases (v hi : F32) :
    F32.min v hi = hi ∨ (F32.min v hi = v ∧ v.isNaN = false ∧ v.val < hi.val) := by
  unfold F32.min
  split
  · rename_i h
    rw [F32.lt_iff] at h
    exact .inr ⟨rfl, h.1, h.2.2⟩
  · exact .inl rfl

/-- A clamped value is no NaN and lies between its bounds, even where the value is a NaN (00_scope.md R12). -/
theorem F32.clamp_bounds {v lo hi : F32} (hl : lo.isNaN = false) (hh : hi.isNaN = false) (h : lo.val ≤ hi.val) :
    (F32.clamp v lo hi).isNaN = false ∧ lo.val ≤ (F32.clamp v lo hi).val ∧ (F32.clamp v lo hi).val ≤ hi.val := by
  unfold F32.clamp
  rcases F32.max_cases v lo with h1 | ⟨h1, h2, h3⟩ <;> rw [h1] <;>
    rcases F32.min_cases _ hi with h4 | ⟨h4, h5, h6⟩ <;> rw [h4] <;> refine ⟨?_, ?_, ?_⟩ <;>
    first | exact hl | exact hh | assumption | omega

/-- Clamping twice is clamping once. -/
theorem F32.clamp_idem {v lo hi : F32} (hl : lo.isNaN = false) (hh : hi.isNaN = false) (h : lo.val < hi.val) :
    F32.clamp (F32.clamp v lo hi) lo hi = F32.clamp v lo hi := by
  have key : ∀ w : F32, (w = lo ∨ w = hi ∨ (w.isNaN = false ∧ lo.val < w.val ∧ w.val < hi.val)) →
      F32.clamp w lo hi = w := by
    intro w hw
    have hlo : F32.max lo lo = lo := by unfold F32.max; split <;> rfl
    have hhi : F32.min hi hi = hi := by unfold F32.min; split <;> rfl
    unfold F32.clamp
    rcases hw with rfl | rfl | ⟨hn, h1, h2⟩
    · rw [hlo]; unfold F32.min; rw [if_pos (F32.lt_iff.2 ⟨hl, hh, h⟩)]
    · unfold F32.max; rw [if_pos (F32.lt_iff.2 ⟨hl, hh, h⟩), hhi]
    · unfold F32.max F32.min
      rw [if_pos (F32.lt_iff.2 ⟨hl, hn, h1⟩), if_pos (F32.lt_iff.2 ⟨hn, hh, h2⟩)]
  apply key
  unfold F32.clamp
  rcases F32.max_cases v lo with h1 | ⟨h1, h2, h3⟩ <;> rw [h1] <;>
    rcases F32.min_cases _ hi with h4 | ⟨h4, h5, h6⟩ <;> rw [h4] <;> grind

/-- A value below an infinity in magnitude is finite. -/
theorem F32.isFinite_of_mag {x : F32} (h : x.mag < 2 ^ 277) : x.isFinite = true := by
  unfold F32.isFinite
  by_contra hc
  simp only [bne_iff_ne, ne_eq, not_not] at hc
  unfold F32.mag at h
  rw [if_neg (by omega), if_pos hc] at h
  omega

/-- The floor of a value between two whole numbers, the lower one positive. -/
theorem F32.floor_between {x : F32} {lo hi : Nat} (hlo : (lo : Int) * 2 ^ 149 ≤ x.val)
    (hhi : x.val ≤ (hi : Int) * 2 ^ 149) (hb : hi < 2 ^ 128) :
    (lo : Int) ≤ x.floor ∧ x.floor ≤ (hi : Int) := by
  have hpos : 0 ≤ x.val :=
    le_trans (Int.mul_nonneg (Int.natCast_nonneg lo) (pow_nonneg (by decide) 149)) hlo
  have hm : (x.mag : Int) = x.val ∨ x.val = 0 ∧ x.mag = 0 := by
    clear hlo hhi hb
    unfold F32.val at *
    split at hpos
    · right; rw [if_pos (by assumption)]; omega
    · left; rw [if_neg (by assumption)]
  have hf : x.isFinite = true := by
    apply F32.isFinite_of_mag
    rcases hm with hm | hm
    · zify; rw [hm]
      calc x.val ≤ (hi : Int) * 2 ^ 149 := hhi
        _ < 2 ^ 128 * 2 ^ 149 := by
          have : (hi : Int) < 2 ^ 128 := by exact_mod_cast hb
          exact (mul_lt_mul_iff_of_pos_right (by positivity)).2 this
        _ = 2 ^ 277 := by rw [← pow_add]
    · rw [hm.2]; positivity
  unfold F32.floor
  rw [if_pos hf]
  push_cast
  constructor
  · exact Int.le_ediv_of_mul_le (by positivity) hlo
  · have := Int.ediv_le_ediv (c := 2 ^ 149) (by positivity) hhi
    rwa [Int.mul_ediv_cancel _ (by positivity)] at this

/-- An integer clamp lies between its bounds. -/
theorem clampi_bounds {i : Int} {lo hi : Nat} (h : lo ≤ hi) : lo ≤ clampi i lo hi ∧ clampi i lo hi ≤ hi := by
  unfold clampi; omega

end Sys2Proof
end

