-- ==== Sys2Proof/Laws/State.lean ====
section
/-!
SUPPORT. One lemma per field of State for every update, each tagged for simp, so that no proof unfolds a record update.
-/

namespace Sys2Proof.Machine

/-! raiseIrq -/

@[simp] theorem State.raiseIrq_ie (s : State) (b : IrqBit) : (s.raiseIrq b).ie = s.ie := rfl
@[simp] theorem State.raiseIrq_ip (s : State) (b : IrqBit) : (s.raiseIrq b).ip = s.ip ||| b.mask := rfl
@[simp] theorem State.raiseIrq_halt (s : State) (b : IrqBit) : (s.raiseIrq b).halt = s.halt := rfl
@[simp] theorem State.raiseIrq_errCause (s : State) (b : IrqBit) : (s.raiseIrq b).errCause = s.errCause := rfl
@[simp] theorem State.raiseIrq_errCmd (s : State) (b : IrqBit) : (s.raiseIrq b).errCmd = s.errCmd := rfl
@[simp] theorem State.raiseIrq_errCp (s : State) (b : IrqBit) : (s.raiseIrq b).errCp = s.errCp := rfl
@[simp] theorem State.raiseIrq_cp (s : State) (b : IrqBit) : (s.raiseIrq b).cp = s.cp := rfl
@[simp] theorem State.raiseIrq_cmdFifo (s : State) (b : IrqBit) : (s.raiseIrq b).cmdFifo = s.cmdFifo := rfl
@[simp] theorem State.raiseIrq_rspFifo (s : State) (b : IrqBit) : (s.raiseIrq b).rspFifo = s.rspFifo := rfl
@[simp] theorem State.raiseIrq_glob (s : State) (b : IrqBit) : (s.raiseIrq b).glob = s.glob := rfl
@[simp] theorem State.raiseIrq_chL (s : State) (b : IrqBit) : (s.raiseIrq b).chL = s.chL := rfl
@[simp] theorem State.raiseIrq_chR (s : State) (b : IrqBit) : (s.raiseIrq b).chR = s.chR := rfl
@[simp] theorem State.raiseIrq_x (s : State) (b : IrqBit) : (s.raiseIrq b).x = s.x := rfl
@[simp] theorem State.raiseIrq_mem (s : State) (b : IrqBit) : (s.raiseIrq b).mem = s.mem := rfl
@[simp] theorem State.raiseIrq_written (s : State) (b : IrqBit) : (s.raiseIrq b).written = s.written := rfl
@[simp] theorem State.raiseIrq_script (s : State) (b : IrqBit) : (s.raiseIrq b).script = s.script := rfl
@[simp] theorem State.raiseIrq_hostReads (s : State) (b : IrqBit) : (s.raiseIrq b).hostReads = s.hostReads := rfl
@[simp] theorem State.raiseIrq_draws (s : State) (b : IrqBit) : (s.raiseIrq b).draws = s.draws := rfl
@[simp] theorem State.raiseIrq_cmdLoss (s : State) (b : IrqBit) : (s.raiseIrq b).cmdLoss = s.cmdLoss := rfl
@[simp] theorem State.raiseIrq_cmdLost (s : State) (b : IrqBit) : (s.raiseIrq b).cmdLost = s.cmdLost := by simp [State.cmdLost]

/-! pushRsp -/

@[simp] theorem State.pushRsp_ie (s : State) (v : Word) : (s.pushRsp v).ie = s.ie := rfl
@[simp] theorem State.pushRsp_ip (s : State) (v : Word) : (s.pushRsp v).ip = s.ip := rfl
@[simp] theorem State.pushRsp_halt (s : State) (v : Word) : (s.pushRsp v).halt = s.halt := rfl
@[simp] theorem State.pushRsp_errCause (s : State) (v : Word) : (s.pushRsp v).errCause = s.errCause := rfl
@[simp] theorem State.pushRsp_errCmd (s : State) (v : Word) : (s.pushRsp v).errCmd = s.errCmd := rfl
@[simp] theorem State.pushRsp_errCp (s : State) (v : Word) : (s.pushRsp v).errCp = s.errCp := rfl
@[simp] theorem State.pushRsp_cp (s : State) (v : Word) : (s.pushRsp v).cp = s.cp := rfl
@[simp] theorem State.pushRsp_cmdFifo (s : State) (v : Word) : (s.pushRsp v).cmdFifo = s.cmdFifo := rfl
@[simp] theorem State.pushRsp_rspFifo (s : State) (v : Word) : (s.pushRsp v).rspFifo = s.rspFifo ++ [v] := rfl
@[simp] theorem State.pushRsp_glob (s : State) (v : Word) : (s.pushRsp v).glob = s.glob := rfl
@[simp] theorem State.pushRsp_chL (s : State) (v : Word) : (s.pushRsp v).chL = s.chL := rfl
@[simp] theorem State.pushRsp_chR (s : State) (v : Word) : (s.pushRsp v).chR = s.chR := rfl
@[simp] theorem State.pushRsp_x (s : State) (v : Word) : (s.pushRsp v).x = s.x := rfl
@[simp] theorem State.pushRsp_mem (s : State) (v : Word) : (s.pushRsp v).mem = s.mem := rfl
@[simp] theorem State.pushRsp_written (s : State) (v : Word) : (s.pushRsp v).written = s.written := rfl
@[simp] theorem State.pushRsp_script (s : State) (v : Word) : (s.pushRsp v).script = s.script := rfl
@[simp] theorem State.pushRsp_hostReads (s : State) (v : Word) : (s.pushRsp v).hostReads = s.hostReads := rfl
@[simp] theorem State.pushRsp_draws (s : State) (v : Word) : (s.pushRsp v).draws = s.draws := rfl
@[simp] theorem State.pushRsp_cmdLoss (s : State) (v : Word) : (s.pushRsp v).cmdLoss = s.cmdLoss := rfl
@[simp] theorem State.pushRsp_cmdLost (s : State) (v : Word) : (s.pushRsp v).cmdLost = s.cmdLost := by simp [State.cmdLost]

/-! storeWord -/

@[simp] theorem State.storeWord_ie (s : State) (a : Nat) (w : Word) : (s.storeWord a w).ie = s.ie := rfl
@[simp] theorem State.storeWord_ip (s : State) (a : Nat) (w : Word) : (s.storeWord a w).ip = s.ip := rfl
@[simp] theorem State.storeWord_halt (s : State) (a : Nat) (w : Word) : (s.storeWord a w).halt = s.halt := rfl
@[simp] theorem State.storeWord_errCause (s : State) (a : Nat) (w : Word) : (s.storeWord a w).errCause = s.errCause := rfl
@[simp] theorem State.storeWord_errCmd (s : State) (a : Nat) (w : Word) : (s.storeWord a w).errCmd = s.errCmd := rfl
@[simp] theorem State.storeWord_errCp (s : State) (a : Nat) (w : Word) : (s.storeWord a w).errCp = s.errCp := rfl
@[simp] theorem State.storeWord_cp (s : State) (a : Nat) (w : Word) : (s.storeWord a w).cp = s.cp := rfl
@[simp] theorem State.storeWord_cmdFifo (s : State) (a : Nat) (w : Word) : (s.storeWord a w).cmdFifo = s.cmdFifo := rfl
@[simp] theorem State.storeWord_rspFifo (s : State) (a : Nat) (w : Word) : (s.storeWord a w).rspFifo = s.rspFifo := rfl
@[simp] theorem State.storeWord_glob (s : State) (a : Nat) (w : Word) : (s.storeWord a w).glob = s.glob := rfl
@[simp] theorem State.storeWord_chL (s : State) (a : Nat) (w : Word) : (s.storeWord a w).chL = s.chL := rfl
@[simp] theorem State.storeWord_chR (s : State) (a : Nat) (w : Word) : (s.storeWord a w).chR = s.chR := rfl
@[simp] theorem State.storeWord_x (s : State) (a : Nat) (w : Word) : (s.storeWord a w).x = s.x := rfl
@[simp] theorem State.storeWord_mem (s : State) (a : Nat) (w : Word) : (s.storeWord a w).mem = s.mem.writeWord a w := rfl
@[simp] theorem State.storeWord_written (s : State) (a : Nat) (w : Word) : (s.storeWord a w).written = insertAddr a s.written := rfl
@[simp] theorem State.storeWord_script (s : State) (a : Nat) (w : Word) : (s.storeWord a w).script = s.script := rfl
@[simp] theorem State.storeWord_hostReads (s : State) (a : Nat) (w : Word) : (s.storeWord a w).hostReads = s.hostReads := rfl
@[simp] theorem State.storeWord_draws (s : State) (a : Nat) (w : Word) : (s.storeWord a w).draws = s.draws := rfl
@[simp] theorem State.storeWord_cmdLoss (s : State) (a : Nat) (w : Word) : (s.storeWord a w).cmdLoss = s.cmdLoss := rfl
@[simp] theorem State.storeWord_cmdLost (s : State) (a : Nat) (w : Word) : (s.storeWord a w).cmdLost = s.cmdLost := by simp [State.cmdLost]

/-! pokeWord -/

@[simp] theorem State.pokeWord_ie (s : State) (a : Nat) (w : Word) : (s.pokeWord a w).ie = s.ie := rfl
@[simp] theorem State.pokeWord_ip (s : State) (a : Nat) (w : Word) : (s.pokeWord a w).ip = s.ip := rfl
@[simp] theorem State.pokeWord_halt (s : State) (a : Nat) (w : Word) : (s.pokeWord a w).halt = s.halt := rfl
@[simp] theorem State.pokeWord_errCause (s : State) (a : Nat) (w : Word) : (s.pokeWord a w).errCause = s.errCause := rfl
@[simp] theorem State.pokeWord_errCmd (s : State) (a : Nat) (w : Word) : (s.pokeWord a w).errCmd = s.errCmd := rfl
@[simp] theorem State.pokeWord_errCp (s : State) (a : Nat) (w : Word) : (s.pokeWord a w).errCp = s.errCp := rfl
@[simp] theorem State.pokeWord_cp (s : State) (a : Nat) (w : Word) : (s.pokeWord a w).cp = s.cp := rfl
@[simp] theorem State.pokeWord_cmdFifo (s : State) (a : Nat) (w : Word) : (s.pokeWord a w).cmdFifo = s.cmdFifo := rfl
@[simp] theorem State.pokeWord_rspFifo (s : State) (a : Nat) (w : Word) : (s.pokeWord a w).rspFifo = s.rspFifo := rfl
@[simp] theorem State.pokeWord_glob (s : State) (a : Nat) (w : Word) : (s.pokeWord a w).glob = s.glob := rfl
@[simp] theorem State.pokeWord_chL (s : State) (a : Nat) (w : Word) : (s.pokeWord a w).chL = s.chL := rfl
@[simp] theorem State.pokeWord_chR (s : State) (a : Nat) (w : Word) : (s.pokeWord a w).chR = s.chR := rfl
@[simp] theorem State.pokeWord_x (s : State) (a : Nat) (w : Word) : (s.pokeWord a w).x = s.x := rfl
@[simp] theorem State.pokeWord_mem (s : State) (a : Nat) (w : Word) : (s.pokeWord a w).mem = s.mem.writeWord a w := rfl
@[simp] theorem State.pokeWord_written (s : State) (a : Nat) (w : Word) : (s.pokeWord a w).written = s.written := rfl
@[simp] theorem State.pokeWord_script (s : State) (a : Nat) (w : Word) : (s.pokeWord a w).script = s.script := rfl
@[simp] theorem State.pokeWord_hostReads (s : State) (a : Nat) (w : Word) : (s.pokeWord a w).hostReads = s.hostReads := rfl
@[simp] theorem State.pokeWord_draws (s : State) (a : Nat) (w : Word) : (s.pokeWord a w).draws = s.draws := rfl
@[simp] theorem State.pokeWord_cmdLoss (s : State) (a : Nat) (w : Word) : (s.pokeWord a w).cmdLoss = s.cmdLoss := rfl
@[simp] theorem State.pokeWord_cmdLost (s : State) (a : Nat) (w : Word) : (s.pokeWord a w).cmdLost = s.cmdLost := by simp [State.cmdLost]

/-! setChan -/

@[simp] theorem State.setChan_ie (s : State) (k : Chan) (c : Channel) : (s.setChan k c).ie = s.ie := by cases k <;> rfl
@[simp] theorem State.setChan_ip (s : State) (k : Chan) (c : Channel) : (s.setChan k c).ip = s.ip := by cases k <;> rfl
@[simp] theorem State.setChan_halt (s : State) (k : Chan) (c : Channel) : (s.setChan k c).halt = s.halt := by cases k <;> rfl
@[simp] theorem State.setChan_errCause (s : State) (k : Chan) (c : Channel) : (s.setChan k c).errCause = s.errCause := by cases k <;> rfl
@[simp] theorem State.setChan_errCmd (s : State) (k : Chan) (c : Channel) : (s.setChan k c).errCmd = s.errCmd := by cases k <;> rfl
@[simp] theorem State.setChan_errCp (s : State) (k : Chan) (c : Channel) : (s.setChan k c).errCp = s.errCp := by cases k <;> rfl
@[simp] theorem State.setChan_cp (s : State) (k : Chan) (c : Channel) : (s.setChan k c).cp = s.cp := by cases k <;> rfl
@[simp] theorem State.setChan_cmdFifo (s : State) (k : Chan) (c : Channel) : (s.setChan k c).cmdFifo = s.cmdFifo := by cases k <;> rfl
@[simp] theorem State.setChan_rspFifo (s : State) (k : Chan) (c : Channel) : (s.setChan k c).rspFifo = s.rspFifo := by cases k <;> rfl
@[simp] theorem State.setChan_glob (s : State) (k : Chan) (c : Channel) : (s.setChan k c).glob = s.glob := by cases k <;> rfl
@[simp] theorem State.setChan_chL (s : State) (k : Chan) (c : Channel) : (s.setChan k c).chL = if k = .L then c else s.chL := by cases k <;> rfl
@[simp] theorem State.setChan_chR (s : State) (k : Chan) (c : Channel) : (s.setChan k c).chR = if k = .R then c else s.chR := by cases k <;> rfl
@[simp] theorem State.setChan_x (s : State) (k : Chan) (c : Channel) : (s.setChan k c).x = s.x := by cases k <;> rfl
@[simp] theorem State.setChan_mem (s : State) (k : Chan) (c : Channel) : (s.setChan k c).mem = s.mem := by cases k <;> rfl
@[simp] theorem State.setChan_written (s : State) (k : Chan) (c : Channel) : (s.setChan k c).written = s.written := by cases k <;> rfl
@[simp] theorem State.setChan_script (s : State) (k : Chan) (c : Channel) : (s.setChan k c).script = s.script := by cases k <;> rfl
@[simp] theorem State.setChan_hostReads (s : State) (k : Chan) (c : Channel) : (s.setChan k c).hostReads = s.hostReads := by cases k <;> rfl
@[simp] theorem State.setChan_draws (s : State) (k : Chan) (c : Channel) : (s.setChan k c).draws = s.draws := by cases k <;> rfl
@[simp] theorem State.setChan_cmdLoss (s : State) (k : Chan) (c : Channel) : (s.setChan k c).cmdLoss = s.cmdLoss := by cases k <;> rfl
@[simp] theorem State.setChan_cmdLost (s : State) (k : Chan) (c : Channel) : (s.setChan k c).cmdLost = s.cmdLost := by simp [State.cmdLost]

/-! clearError -/

@[simp] theorem State.clearError_ie (s : State) : (s.clearError).ie = s.ie := rfl
@[simp] theorem State.clearError_ip (s : State) : (s.clearError).ip = s.ip := rfl
@[simp] theorem State.clearError_halt (s : State) : (s.clearError).halt = false := rfl
@[simp] theorem State.clearError_errCause (s : State) : (s.clearError).errCause = none := rfl
@[simp] theorem State.clearError_errCmd (s : State) : (s.clearError).errCmd = 0 := rfl
@[simp] theorem State.clearError_errCp (s : State) : (s.clearError).errCp = 0 := rfl
@[simp] theorem State.clearError_cp (s : State) : (s.clearError).cp = s.cp := rfl
@[simp] theorem State.clearError_cmdFifo (s : State) : (s.clearError).cmdFifo = s.cmdFifo := rfl
@[simp] theorem State.clearError_rspFifo (s : State) : (s.clearError).rspFifo = s.rspFifo := rfl
@[simp] theorem State.clearError_glob (s : State) : (s.clearError).glob = s.glob := rfl
@[simp] theorem State.clearError_chL (s : State) : (s.clearError).chL = s.chL := rfl
@[simp] theorem State.clearError_chR (s : State) : (s.clearError).chR = s.chR := rfl
@[simp] theorem State.clearError_x (s : State) : (s.clearError).x = s.x := rfl
@[simp] theorem State.clearError_mem (s : State) : (s.clearError).mem = s.mem := rfl
@[simp] theorem State.clearError_written (s : State) : (s.clearError).written = s.written := rfl
@[simp] theorem State.clearError_script (s : State) : (s.clearError).script = s.script := rfl
@[simp] theorem State.clearError_hostReads (s : State) : (s.clearError).hostReads = s.hostReads := rfl
@[simp] theorem State.clearError_draws (s : State) : (s.clearError).draws = s.draws := rfl
@[simp] theorem State.clearError_cmdLoss (s : State) : (s.clearError).cmdLoss = s.cmdLoss := rfl
@[simp] theorem State.clearError_cmdLost (s : State) : (s.clearError).cmdLost = s.cmdLost := by simp [State.cmdLost]

/-! ackIrq -/

@[simp] theorem State.ackIrq_ie (s : State) (w : Word) : (s.ackIrq w).ie = s.ie := rfl
@[simp] theorem State.ackIrq_ip (s : State) (w : Word) : (s.ackIrq w).ip = s.ip &&& ~~~(w.extractLsb' 0 6) := rfl
@[simp] theorem State.ackIrq_halt (s : State) (w : Word) : (s.ackIrq w).halt = s.halt := rfl
@[simp] theorem State.ackIrq_errCause (s : State) (w : Word) : (s.ackIrq w).errCause = s.errCause := rfl
@[simp] theorem State.ackIrq_errCmd (s : State) (w : Word) : (s.ackIrq w).errCmd = s.errCmd := rfl
@[simp] theorem State.ackIrq_errCp (s : State) (w : Word) : (s.ackIrq w).errCp = s.errCp := rfl
@[simp] theorem State.ackIrq_cp (s : State) (w : Word) : (s.ackIrq w).cp = s.cp := rfl
@[simp] theorem State.ackIrq_cmdFifo (s : State) (w : Word) : (s.ackIrq w).cmdFifo = s.cmdFifo := rfl
@[simp] theorem State.ackIrq_rspFifo (s : State) (w : Word) : (s.ackIrq w).rspFifo = s.rspFifo := rfl
@[simp] theorem State.ackIrq_glob (s : State) (w : Word) : (s.ackIrq w).glob = s.glob := rfl
@[simp] theorem State.ackIrq_chL (s : State) (w : Word) : (s.ackIrq w).chL = s.chL := rfl
@[simp] theorem State.ackIrq_chR (s : State) (w : Word) : (s.ackIrq w).chR = s.chR := rfl
@[simp] theorem State.ackIrq_x (s : State) (w : Word) : (s.ackIrq w).x = s.x := rfl
@[simp] theorem State.ackIrq_mem (s : State) (w : Word) : (s.ackIrq w).mem = s.mem := rfl
@[simp] theorem State.ackIrq_written (s : State) (w : Word) : (s.ackIrq w).written = s.written := rfl
@[simp] theorem State.ackIrq_script (s : State) (w : Word) : (s.ackIrq w).script = s.script := rfl
@[simp] theorem State.ackIrq_hostReads (s : State) (w : Word) : (s.ackIrq w).hostReads = s.hostReads := rfl
@[simp] theorem State.ackIrq_draws (s : State) (w : Word) : (s.ackIrq w).draws = s.draws := rfl
@[simp] theorem State.ackIrq_cmdLoss (s : State) (w : Word) : (s.ackIrq w).cmdLoss = s.cmdLoss := rfl
@[simp] theorem State.ackIrq_cmdLost (s : State) (w : Word) : (s.ackIrq w).cmdLost = s.cmdLost := by simp [State.cmdLost]

/-! answer -/

@[simp] theorem State.answer_ie (s : State) (v : Word) : (s.answer v).ie = s.ie := rfl
@[simp] theorem State.answer_ip (s : State) (v : Word) : (s.answer v).ip = s.ip := rfl
@[simp] theorem State.answer_halt (s : State) (v : Word) : (s.answer v).halt = s.halt := rfl
@[simp] theorem State.answer_errCause (s : State) (v : Word) : (s.answer v).errCause = s.errCause := rfl
@[simp] theorem State.answer_errCmd (s : State) (v : Word) : (s.answer v).errCmd = s.errCmd := rfl
@[simp] theorem State.answer_errCp (s : State) (v : Word) : (s.answer v).errCp = s.errCp := rfl
@[simp] theorem State.answer_cp (s : State) (v : Word) : (s.answer v).cp = s.cp := rfl
@[simp] theorem State.answer_cmdFifo (s : State) (v : Word) : (s.answer v).cmdFifo = s.cmdFifo := rfl
@[simp] theorem State.answer_rspFifo (s : State) (v : Word) : (s.answer v).rspFifo = s.rspFifo := rfl
@[simp] theorem State.answer_glob (s : State) (v : Word) : (s.answer v).glob = s.glob := rfl
@[simp] theorem State.answer_chL (s : State) (v : Word) : (s.answer v).chL = s.chL := rfl
@[simp] theorem State.answer_chR (s : State) (v : Word) : (s.answer v).chR = s.chR := rfl
@[simp] theorem State.answer_x (s : State) (v : Word) : (s.answer v).x = s.x := rfl
@[simp] theorem State.answer_mem (s : State) (v : Word) : (s.answer v).mem = s.mem := rfl
@[simp] theorem State.answer_written (s : State) (v : Word) : (s.answer v).written = s.written := rfl
@[simp] theorem State.answer_script (s : State) (v : Word) : (s.answer v).script = s.script := rfl
@[simp] theorem State.answer_hostReads (s : State) (v : Word) : (s.answer v).hostReads = s.hostReads ++ [v] := rfl
@[simp] theorem State.answer_draws (s : State) (v : Word) : (s.answer v).draws = s.draws := rfl
@[simp] theorem State.answer_cmdLoss (s : State) (v : Word) : (s.answer v).cmdLoss = s.cmdLoss := rfl
@[simp] theorem State.answer_cmdLost (s : State) (v : Word) : (s.answer v).cmdLost = s.cmdLost := by simp [State.cmdLost]

/-! drawWord -/

@[simp] theorem State.drawWord_ie (s : State) : (s.drawWord).ie = s.ie := rfl
@[simp] theorem State.drawWord_ip (s : State) : (s.drawWord).ip = s.ip := rfl
@[simp] theorem State.drawWord_halt (s : State) : (s.drawWord).halt = s.halt := rfl
@[simp] theorem State.drawWord_errCause (s : State) : (s.drawWord).errCause = s.errCause := rfl
@[simp] theorem State.drawWord_errCmd (s : State) : (s.drawWord).errCmd = s.errCmd := rfl
@[simp] theorem State.drawWord_errCp (s : State) : (s.drawWord).errCp = s.errCp := rfl
@[simp] theorem State.drawWord_cp (s : State) : (s.drawWord).cp = s.cp := rfl
@[simp] theorem State.drawWord_cmdFifo (s : State) : (s.drawWord).cmdFifo = s.cmdFifo := rfl
@[simp] theorem State.drawWord_rspFifo (s : State) : (s.drawWord).rspFifo = s.rspFifo := rfl
@[simp] theorem State.drawWord_glob (s : State) : (s.drawWord).glob = s.glob := rfl
@[simp] theorem State.drawWord_chL (s : State) : (s.drawWord).chL = s.chL := rfl
@[simp] theorem State.drawWord_chR (s : State) : (s.drawWord).chR = s.chR := rfl
@[simp] theorem State.drawWord_x (s : State) : (s.drawWord).x = s.x := rfl
@[simp] theorem State.drawWord_mem (s : State) : (s.drawWord).mem = s.mem := rfl
@[simp] theorem State.drawWord_written (s : State) : (s.drawWord).written = s.written := rfl
@[simp] theorem State.drawWord_script (s : State) : (s.drawWord).script = s.script := rfl
@[simp] theorem State.drawWord_hostReads (s : State) : (s.drawWord).hostReads = s.hostReads ++ [Config.draw s.draws] := rfl
@[simp] theorem State.drawWord_draws (s : State) : (s.drawWord).draws = s.draws + 1 := rfl
@[simp] theorem State.drawWord_cmdLoss (s : State) : (s.drawWord).cmdLoss = s.cmdLoss := rfl
@[simp] theorem State.drawWord_cmdLost (s : State) : (s.drawWord).cmdLost = s.cmdLost := by simp [State.cmdLost]

/-! flushRsp -/

@[simp] theorem State.flushRsp_ie (s : State) : (s.flushRsp).ie = s.ie := rfl
@[simp] theorem State.flushRsp_ip (s : State) : (s.flushRsp).ip = s.ip := rfl
@[simp] theorem State.flushRsp_halt (s : State) : (s.flushRsp).halt = s.halt := rfl
@[simp] theorem State.flushRsp_errCause (s : State) : (s.flushRsp).errCause = s.errCause := rfl
@[simp] theorem State.flushRsp_errCmd (s : State) : (s.flushRsp).errCmd = s.errCmd := rfl
@[simp] theorem State.flushRsp_errCp (s : State) : (s.flushRsp).errCp = s.errCp := rfl
@[simp] theorem State.flushRsp_cp (s : State) : (s.flushRsp).cp = s.cp := rfl
@[simp] theorem State.flushRsp_cmdFifo (s : State) : (s.flushRsp).cmdFifo = s.cmdFifo := rfl
@[simp] theorem State.flushRsp_rspFifo (s : State) : (s.flushRsp).rspFifo = [] := rfl
@[simp] theorem State.flushRsp_glob (s : State) : (s.flushRsp).glob = s.glob := rfl
@[simp] theorem State.flushRsp_chL (s : State) : (s.flushRsp).chL = s.chL := rfl
@[simp] theorem State.flushRsp_chR (s : State) : (s.flushRsp).chR = s.chR := rfl
@[simp] theorem State.flushRsp_x (s : State) : (s.flushRsp).x = s.x := rfl
@[simp] theorem State.flushRsp_mem (s : State) : (s.flushRsp).mem = s.mem := rfl
@[simp] theorem State.flushRsp_written (s : State) : (s.flushRsp).written = s.written := rfl
@[simp] theorem State.flushRsp_script (s : State) : (s.flushRsp).script = s.script := rfl
@[simp] theorem State.flushRsp_hostReads (s : State) : (s.flushRsp).hostReads = s.hostReads := rfl
@[simp] theorem State.flushRsp_draws (s : State) : (s.flushRsp).draws = s.draws := rfl
@[simp] theorem State.flushRsp_cmdLoss (s : State) : (s.flushRsp).cmdLoss = s.cmdLoss := rfl
@[simp] theorem State.flushRsp_cmdLost (s : State) : (s.flushRsp).cmdLost = s.cmdLost := by simp [State.cmdLost]

/-! completed -/

@[simp] theorem State.completed_ie (s : State) (len : Nat) (rest : List Word) : (s.completed len rest).ie = s.ie := rfl
@[simp] theorem State.completed_ip (s : State) (len : Nat) (rest : List Word) : (s.completed len rest).ip = if rest = [] then s.ip ||| 0b000100 else s.ip := rfl
@[simp] theorem State.completed_halt (s : State) (len : Nat) (rest : List Word) : (s.completed len rest).halt = s.halt := rfl
@[simp] theorem State.completed_errCause (s : State) (len : Nat) (rest : List Word) : (s.completed len rest).errCause = s.errCause := rfl
@[simp] theorem State.completed_errCmd (s : State) (len : Nat) (rest : List Word) : (s.completed len rest).errCmd = s.errCmd := rfl
@[simp] theorem State.completed_errCp (s : State) (len : Nat) (rest : List Word) : (s.completed len rest).errCp = s.errCp := rfl
@[simp] theorem State.completed_cp (s : State) (len : Nat) (rest : List Word) : (s.completed len rest).cp = s.cp + BitVec.ofNat 32 len := rfl
@[simp] theorem State.completed_cmdFifo (s : State) (len : Nat) (rest : List Word) : (s.completed len rest).cmdFifo = rest := rfl
@[simp] theorem State.completed_rspFifo (s : State) (len : Nat) (rest : List Word) : (s.completed len rest).rspFifo = s.rspFifo := rfl
@[simp] theorem State.completed_glob (s : State) (len : Nat) (rest : List Word) : (s.completed len rest).glob = s.glob := rfl
@[simp] theorem State.completed_chL (s : State) (len : Nat) (rest : List Word) : (s.completed len rest).chL = s.chL := rfl
@[simp] theorem State.completed_chR (s : State) (len : Nat) (rest : List Word) : (s.completed len rest).chR = s.chR := rfl
@[simp] theorem State.completed_x (s : State) (len : Nat) (rest : List Word) : (s.completed len rest).x = s.x := rfl
@[simp] theorem State.completed_mem (s : State) (len : Nat) (rest : List Word) : (s.completed len rest).mem = s.mem := rfl
@[simp] theorem State.completed_written (s : State) (len : Nat) (rest : List Word) : (s.completed len rest).written = s.written := rfl
@[simp] theorem State.completed_script (s : State) (len : Nat) (rest : List Word) : (s.completed len rest).script = s.script := rfl
@[simp] theorem State.completed_hostReads (s : State) (len : Nat) (rest : List Word) : (s.completed len rest).hostReads = s.hostReads := rfl
@[simp] theorem State.completed_draws (s : State) (len : Nat) (rest : List Word) : (s.completed len rest).draws = s.draws := rfl
@[simp] theorem State.completed_cmdLoss (s : State) (len : Nat) (rest : List Word) : (s.completed len rest).cmdLoss = s.cmdLoss := rfl
@[simp] theorem State.completed_cmdLost (s : State) (len : Nat) (rest : List Word) : (s.completed len rest).cmdLost = s.cmdLost := by simp [State.cmdLost]

/-! errored -/

@[simp] theorem State.errored_ie (s : State) (c : Cause) (w : Word) (len : Nat) (rest : List Word) : (s.errored c w len rest).ie = s.ie := rfl
@[simp] theorem State.errored_ip (s : State) (c : Cause) (w : Word) (len : Nat) (rest : List Word) : (s.errored c w len rest).ip = if rest = [] then s.ip ||| 0b000110 else s.ip ||| 0b000010 := rfl
@[simp] theorem State.errored_halt (s : State) (c : Cause) (w : Word) (len : Nat) (rest : List Word) : (s.errored c w len rest).halt = true := rfl
@[simp] theorem State.errored_errCause (s : State) (c : Cause) (w : Word) (len : Nat) (rest : List Word) : (s.errored c w len rest).errCause = some c := rfl
@[simp] theorem State.errored_errCmd (s : State) (c : Cause) (w : Word) (len : Nat) (rest : List Word) : (s.errored c w len rest).errCmd = w := rfl
@[simp] theorem State.errored_errCp (s : State) (c : Cause) (w : Word) (len : Nat) (rest : List Word) : (s.errored c w len rest).errCp = s.cp := rfl
@[simp] theorem State.errored_cp (s : State) (c : Cause) (w : Word) (len : Nat) (rest : List Word) : (s.errored c w len rest).cp = s.cp + BitVec.ofNat 32 len := rfl
@[simp] theorem State.errored_cmdFifo (s : State) (c : Cause) (w : Word) (len : Nat) (rest : List Word) : (s.errored c w len rest).cmdFifo = rest := rfl
@[simp] theorem State.errored_rspFifo (s : State) (c : Cause) (w : Word) (len : Nat) (rest : List Word) : (s.errored c w len rest).rspFifo = s.rspFifo := rfl
@[simp] theorem State.errored_glob (s : State) (c : Cause) (w : Word) (len : Nat) (rest : List Word) : (s.errored c w len rest).glob = s.glob := rfl
@[simp] theorem State.errored_chL (s : State) (c : Cause) (w : Word) (len : Nat) (rest : List Word) : (s.errored c w len rest).chL = s.chL := rfl
@[simp] theorem State.errored_chR (s : State) (c : Cause) (w : Word) (len : Nat) (rest : List Word) : (s.errored c w len rest).chR = s.chR := rfl
@[simp] theorem State.errored_x (s : State) (c : Cause) (w : Word) (len : Nat) (rest : List Word) : (s.errored c w len rest).x = s.x := rfl
@[simp] theorem State.errored_mem (s : State) (c : Cause) (w : Word) (len : Nat) (rest : List Word) : (s.errored c w len rest).mem = s.mem := rfl
@[simp] theorem State.errored_written (s : State) (c : Cause) (w : Word) (len : Nat) (rest : List Word) : (s.errored c w len rest).written = s.written := rfl
@[simp] theorem State.errored_script (s : State) (c : Cause) (w : Word) (len : Nat) (rest : List Word) : (s.errored c w len rest).script = s.script := rfl
@[simp] theorem State.errored_hostReads (s : State) (c : Cause) (w : Word) (len : Nat) (rest : List Word) : (s.errored c w len rest).hostReads = s.hostReads := rfl
@[simp] theorem State.errored_draws (s : State) (c : Cause) (w : Word) (len : Nat) (rest : List Word) : (s.errored c w len rest).draws = s.draws := rfl
@[simp] theorem State.errored_cmdLoss (s : State) (c : Cause) (w : Word) (len : Nat) (rest : List Word) : (s.errored c w len rest).cmdLoss = s.cmdLoss := rfl
@[simp] theorem State.errored_cmdLost (s : State) (c : Cause) (w : Word) (len : Nat) (rest : List Word) : (s.errored c w len rest).cmdLost = s.cmdLost := by simp [State.cmdLost]

/-! mapped -/

@[simp] theorem State.mapped_ie (s : State) (m : BitVec 2) (f : Chan → Channel → Channel) : (s.mapped m f).ie = s.ie := rfl
@[simp] theorem State.mapped_ip (s : State) (m : BitVec 2) (f : Chan → Channel → Channel) : (s.mapped m f).ip = s.ip := rfl
@[simp] theorem State.mapped_halt (s : State) (m : BitVec 2) (f : Chan → Channel → Channel) : (s.mapped m f).halt = s.halt := rfl
@[simp] theorem State.mapped_errCause (s : State) (m : BitVec 2) (f : Chan → Channel → Channel) : (s.mapped m f).errCause = s.errCause := rfl
@[simp] theorem State.mapped_errCmd (s : State) (m : BitVec 2) (f : Chan → Channel → Channel) : (s.mapped m f).errCmd = s.errCmd := rfl
@[simp] theorem State.mapped_errCp (s : State) (m : BitVec 2) (f : Chan → Channel → Channel) : (s.mapped m f).errCp = s.errCp := rfl
@[simp] theorem State.mapped_cp (s : State) (m : BitVec 2) (f : Chan → Channel → Channel) : (s.mapped m f).cp = s.cp := rfl
@[simp] theorem State.mapped_cmdFifo (s : State) (m : BitVec 2) (f : Chan → Channel → Channel) : (s.mapped m f).cmdFifo = s.cmdFifo := rfl
@[simp] theorem State.mapped_rspFifo (s : State) (m : BitVec 2) (f : Chan → Channel → Channel) : (s.mapped m f).rspFifo = s.rspFifo := rfl
@[simp] theorem State.mapped_glob (s : State) (m : BitVec 2) (f : Chan → Channel → Channel) : (s.mapped m f).glob = s.glob := rfl
@[simp] theorem State.mapped_chL (s : State) (m : BitVec 2) (f : Chan → Channel → Channel) : (s.mapped m f).chL = if m.getLsbD 0 then f .L s.chL else s.chL := rfl
@[simp] theorem State.mapped_chR (s : State) (m : BitVec 2) (f : Chan → Channel → Channel) : (s.mapped m f).chR = if m.getLsbD 1 then f .R s.chR else s.chR := rfl
@[simp] theorem State.mapped_x (s : State) (m : BitVec 2) (f : Chan → Channel → Channel) : (s.mapped m f).x = s.x := rfl
@[simp] theorem State.mapped_mem (s : State) (m : BitVec 2) (f : Chan → Channel → Channel) : (s.mapped m f).mem = s.mem := rfl
@[simp] theorem State.mapped_written (s : State) (m : BitVec 2) (f : Chan → Channel → Channel) : (s.mapped m f).written = s.written := rfl
@[simp] theorem State.mapped_script (s : State) (m : BitVec 2) (f : Chan → Channel → Channel) : (s.mapped m f).script = s.script := rfl
@[simp] theorem State.mapped_hostReads (s : State) (m : BitVec 2) (f : Chan → Channel → Channel) : (s.mapped m f).hostReads = s.hostReads := rfl
@[simp] theorem State.mapped_draws (s : State) (m : BitVec 2) (f : Chan → Channel → Channel) : (s.mapped m f).draws = s.draws := rfl
@[simp] theorem State.mapped_cmdLoss (s : State) (m : BitVec 2) (f : Chan → Channel → Channel) : (s.mapped m f).cmdLoss = s.cmdLoss := rfl
@[simp] theorem State.mapped_cmdLost (s : State) (m : BitVec 2) (f : Chan → Channel → Channel) : (s.mapped m f).cmdLost = s.cmdLost := by simp [State.cmdLost]

/-! noteIdle -/

@[simp] theorem State.noteIdle_ie (s : State) : (s.noteIdle).ie = s.ie := by unfold State.noteIdle; split <;> rfl
@[simp] theorem State.noteIdle_halt (s : State) : (s.noteIdle).halt = s.halt := by unfold State.noteIdle; split <;> rfl
@[simp] theorem State.noteIdle_errCause (s : State) : (s.noteIdle).errCause = s.errCause := by unfold State.noteIdle; split <;> rfl
@[simp] theorem State.noteIdle_errCmd (s : State) : (s.noteIdle).errCmd = s.errCmd := by unfold State.noteIdle; split <;> rfl
@[simp] theorem State.noteIdle_errCp (s : State) : (s.noteIdle).errCp = s.errCp := by unfold State.noteIdle; split <;> rfl
@[simp] theorem State.noteIdle_cp (s : State) : (s.noteIdle).cp = s.cp := by unfold State.noteIdle; split <;> rfl
@[simp] theorem State.noteIdle_cmdFifo (s : State) : (s.noteIdle).cmdFifo = s.cmdFifo := by unfold State.noteIdle; split <;> rfl
@[simp] theorem State.noteIdle_rspFifo (s : State) : (s.noteIdle).rspFifo = s.rspFifo := by unfold State.noteIdle; split <;> rfl
@[simp] theorem State.noteIdle_glob (s : State) : (s.noteIdle).glob = s.glob := by unfold State.noteIdle; split <;> rfl
@[simp] theorem State.noteIdle_chL (s : State) : (s.noteIdle).chL = s.chL := by unfold State.noteIdle; split <;> rfl
@[simp] theorem State.noteIdle_chR (s : State) : (s.noteIdle).chR = s.chR := by unfold State.noteIdle; split <;> rfl
@[simp] theorem State.noteIdle_x (s : State) : (s.noteIdle).x = s.x := by unfold State.noteIdle; split <;> rfl
@[simp] theorem State.noteIdle_mem (s : State) : (s.noteIdle).mem = s.mem := by unfold State.noteIdle; split <;> rfl
@[simp] theorem State.noteIdle_written (s : State) : (s.noteIdle).written = s.written := by unfold State.noteIdle; split <;> rfl
@[simp] theorem State.noteIdle_script (s : State) : (s.noteIdle).script = s.script := by unfold State.noteIdle; split <;> rfl
@[simp] theorem State.noteIdle_hostReads (s : State) : (s.noteIdle).hostReads = s.hostReads := by unfold State.noteIdle; split <;> rfl
@[simp] theorem State.noteIdle_draws (s : State) : (s.noteIdle).draws = s.draws := by unfold State.noteIdle; split <;> rfl
@[simp] theorem State.noteIdle_cmdLoss (s : State) : (s.noteIdle).cmdLoss = s.cmdLoss := by unfold State.noteIdle; split <;> rfl
@[simp] theorem State.noteIdle_cmdLost (s : State) : (s.noteIdle).cmdLost = s.cmdLost := by simp [State.cmdLost]

theorem State.noteIdle_ip (s : State) :
    s.noteIdle.ip = if s.cmdFifo = [] then s.ip ||| 0b000100 else s.ip := by
  unfold State.noteIdle
  cases h : s.cmdFifo <;> simp [IrqBit.mask, IrqBit.index]

/-! consume -/

@[simp] theorem State.consume_ie (s : State) (n : Nat) : (s.consume n).ie = s.ie := by simp [State.consume]
@[simp] theorem State.consume_halt (s : State) (n : Nat) : (s.consume n).halt = s.halt := by simp [State.consume]
@[simp] theorem State.consume_errCause (s : State) (n : Nat) : (s.consume n).errCause = s.errCause := by simp [State.consume]
@[simp] theorem State.consume_errCmd (s : State) (n : Nat) : (s.consume n).errCmd = s.errCmd := by simp [State.consume]
@[simp] theorem State.consume_errCp (s : State) (n : Nat) : (s.consume n).errCp = s.errCp := by simp [State.consume]
@[simp] theorem State.consume_cp (s : State) (n : Nat) : (s.consume n).cp = s.cp + BitVec.ofNat 32 n := by simp [State.consume]
@[simp] theorem State.consume_cmdFifo (s : State) (n : Nat) : (s.consume n).cmdFifo = s.cmdFifo.drop n := by simp [State.consume]
@[simp] theorem State.consume_rspFifo (s : State) (n : Nat) : (s.consume n).rspFifo = s.rspFifo := by simp [State.consume]
@[simp] theorem State.consume_glob (s : State) (n : Nat) : (s.consume n).glob = s.glob := by simp [State.consume]
@[simp] theorem State.consume_chL (s : State) (n : Nat) : (s.consume n).chL = s.chL := by simp [State.consume]
@[simp] theorem State.consume_chR (s : State) (n : Nat) : (s.consume n).chR = s.chR := by simp [State.consume]
@[simp] theorem State.consume_x (s : State) (n : Nat) : (s.consume n).x = s.x := by simp [State.consume]
@[simp] theorem State.consume_mem (s : State) (n : Nat) : (s.consume n).mem = s.mem := by simp [State.consume]
@[simp] theorem State.consume_written (s : State) (n : Nat) : (s.consume n).written = s.written := by simp [State.consume]
@[simp] theorem State.consume_script (s : State) (n : Nat) : (s.consume n).script = s.script := by simp [State.consume]
@[simp] theorem State.consume_hostReads (s : State) (n : Nat) : (s.consume n).hostReads = s.hostReads := by simp [State.consume]
@[simp] theorem State.consume_draws (s : State) (n : Nat) : (s.consume n).draws = s.draws := by simp [State.consume]
@[simp] theorem State.consume_cmdLoss (s : State) (n : Nat) : (s.consume n).cmdLoss = s.cmdLoss := by simp [State.consume]
@[simp] theorem State.consume_cmdLost (s : State) (n : Nat) : (s.consume n).cmdLost = s.cmdLost := by simp [State.cmdLost]

/-! raiseError -/

@[simp] theorem State.raiseError_ie (s : State) (c : Cause) (w : Word) (n : Nat) : (s.raiseError c w n).ie = s.ie := by simp [State.raiseError]
@[simp] theorem State.raiseError_halt (s : State) (c : Cause) (w : Word) (n : Nat) : (s.raiseError c w n).halt = true := by simp [State.raiseError]
@[simp] theorem State.raiseError_errCause (s : State) (c : Cause) (w : Word) (n : Nat) : (s.raiseError c w n).errCause = some c := by simp [State.raiseError]
@[simp] theorem State.raiseError_errCmd (s : State) (c : Cause) (w : Word) (n : Nat) : (s.raiseError c w n).errCmd = w := by simp [State.raiseError]
@[simp] theorem State.raiseError_errCp (s : State) (c : Cause) (w : Word) (n : Nat) : (s.raiseError c w n).errCp = s.cp := by simp [State.raiseError]
@[simp] theorem State.raiseError_cp (s : State) (c : Cause) (w : Word) (n : Nat) : (s.raiseError c w n).cp = s.cp + BitVec.ofNat 32 n := by simp [State.raiseError]
@[simp] theorem State.raiseError_cmdFifo (s : State) (c : Cause) (w : Word) (n : Nat) : (s.raiseError c w n).cmdFifo = s.cmdFifo.drop n := by simp [State.raiseError]
@[simp] theorem State.raiseError_rspFifo (s : State) (c : Cause) (w : Word) (n : Nat) : (s.raiseError c w n).rspFifo = s.rspFifo := by simp [State.raiseError]
@[simp] theorem State.raiseError_glob (s : State) (c : Cause) (w : Word) (n : Nat) : (s.raiseError c w n).glob = s.glob := by simp [State.raiseError]
@[simp] theorem State.raiseError_chL (s : State) (c : Cause) (w : Word) (n : Nat) : (s.raiseError c w n).chL = s.chL := by simp [State.raiseError]
@[simp] theorem State.raiseError_chR (s : State) (c : Cause) (w : Word) (n : Nat) : (s.raiseError c w n).chR = s.chR := by simp [State.raiseError]
@[simp] theorem State.raiseError_x (s : State) (c : Cause) (w : Word) (n : Nat) : (s.raiseError c w n).x = s.x := by simp [State.raiseError]
@[simp] theorem State.raiseError_mem (s : State) (c : Cause) (w : Word) (n : Nat) : (s.raiseError c w n).mem = s.mem := by simp [State.raiseError]
@[simp] theorem State.raiseError_written (s : State) (c : Cause) (w : Word) (n : Nat) : (s.raiseError c w n).written = s.written := by simp [State.raiseError]
@[simp] theorem State.raiseError_script (s : State) (c : Cause) (w : Word) (n : Nat) : (s.raiseError c w n).script = s.script := by simp [State.raiseError]
@[simp] theorem State.raiseError_hostReads (s : State) (c : Cause) (w : Word) (n : Nat) : (s.raiseError c w n).hostReads = s.hostReads := by simp [State.raiseError]
@[simp] theorem State.raiseError_draws (s : State) (c : Cause) (w : Word) (n : Nat) : (s.raiseError c w n).draws = s.draws := by simp [State.raiseError]
@[simp] theorem State.raiseError_cmdLoss (s : State) (c : Cause) (w : Word) (n : Nat) : (s.raiseError c w n).cmdLoss = s.cmdLoss := by simp [State.raiseError]
@[simp] theorem State.raiseError_cmdLost (s : State) (c : Cause) (w : Word) (n : Nat) : (s.raiseError c w n).cmdLost = s.cmdLost := by simp [State.cmdLost]

/-! onChannels -/

@[simp] theorem State.onChannels_ie (s : State) (m : BitVec 2) (f : Chan → Channel → Channel) : (s.onChannels m f).ie = s.ie := by unfold State.onChannels; cases m.getLsbD 0 <;> cases m.getLsbD 1 <;> rfl
@[simp] theorem State.onChannels_ip (s : State) (m : BitVec 2) (f : Chan → Channel → Channel) : (s.onChannels m f).ip = s.ip := by unfold State.onChannels; cases m.getLsbD 0 <;> cases m.getLsbD 1 <;> rfl
@[simp] theorem State.onChannels_halt (s : State) (m : BitVec 2) (f : Chan → Channel → Channel) : (s.onChannels m f).halt = s.halt := by unfold State.onChannels; cases m.getLsbD 0 <;> cases m.getLsbD 1 <;> rfl
@[simp] theorem State.onChannels_errCause (s : State) (m : BitVec 2) (f : Chan → Channel → Channel) : (s.onChannels m f).errCause = s.errCause := by unfold State.onChannels; cases m.getLsbD 0 <;> cases m.getLsbD 1 <;> rfl
@[simp] theorem State.onChannels_errCmd (s : State) (m : BitVec 2) (f : Chan → Channel → Channel) : (s.onChannels m f).errCmd = s.errCmd := by unfold State.onChannels; cases m.getLsbD 0 <;> cases m.getLsbD 1 <;> rfl
@[simp] theorem State.onChannels_errCp (s : State) (m : BitVec 2) (f : Chan → Channel → Channel) : (s.onChannels m f).errCp = s.errCp := by unfold State.onChannels; cases m.getLsbD 0 <;> cases m.getLsbD 1 <;> rfl
@[simp] theorem State.onChannels_cp (s : State) (m : BitVec 2) (f : Chan → Channel → Channel) : (s.onChannels m f).cp = s.cp := by unfold State.onChannels; cases m.getLsbD 0 <;> cases m.getLsbD 1 <;> rfl
@[simp] theorem State.onChannels_cmdFifo (s : State) (m : BitVec 2) (f : Chan → Channel → Channel) : (s.onChannels m f).cmdFifo = s.cmdFifo := by unfold State.onChannels; cases m.getLsbD 0 <;> cases m.getLsbD 1 <;> rfl
@[simp] theorem State.onChannels_rspFifo (s : State) (m : BitVec 2) (f : Chan → Channel → Channel) : (s.onChannels m f).rspFifo = s.rspFifo := by unfold State.onChannels; cases m.getLsbD 0 <;> cases m.getLsbD 1 <;> rfl
@[simp] theorem State.onChannels_glob (s : State) (m : BitVec 2) (f : Chan → Channel → Channel) : (s.onChannels m f).glob = s.glob := by unfold State.onChannels; cases m.getLsbD 0 <;> cases m.getLsbD 1 <;> rfl
@[simp] theorem State.onChannels_chL (s : State) (m : BitVec 2) (f : Chan → Channel → Channel) : (s.onChannels m f).chL = if m.getLsbD 0 then f .L s.chL else s.chL := by unfold State.onChannels; cases m.getLsbD 0 <;> cases m.getLsbD 1 <;> rfl
@[simp] theorem State.onChannels_chR (s : State) (m : BitVec 2) (f : Chan → Channel → Channel) : (s.onChannels m f).chR = if m.getLsbD 1 then f .R s.chR else s.chR := by unfold State.onChannels; cases m.getLsbD 0 <;> cases m.getLsbD 1 <;> rfl
@[simp] theorem State.onChannels_x (s : State) (m : BitVec 2) (f : Chan → Channel → Channel) : (s.onChannels m f).x = s.x := by unfold State.onChannels; cases m.getLsbD 0 <;> cases m.getLsbD 1 <;> rfl
@[simp] theorem State.onChannels_mem (s : State) (m : BitVec 2) (f : Chan → Channel → Channel) : (s.onChannels m f).mem = s.mem := by unfold State.onChannels; cases m.getLsbD 0 <;> cases m.getLsbD 1 <;> rfl
@[simp] theorem State.onChannels_written (s : State) (m : BitVec 2) (f : Chan → Channel → Channel) : (s.onChannels m f).written = s.written := by unfold State.onChannels; cases m.getLsbD 0 <;> cases m.getLsbD 1 <;> rfl
@[simp] theorem State.onChannels_script (s : State) (m : BitVec 2) (f : Chan → Channel → Channel) : (s.onChannels m f).script = s.script := by unfold State.onChannels; cases m.getLsbD 0 <;> cases m.getLsbD 1 <;> rfl
@[simp] theorem State.onChannels_hostReads (s : State) (m : BitVec 2) (f : Chan → Channel → Channel) : (s.onChannels m f).hostReads = s.hostReads := by unfold State.onChannels; cases m.getLsbD 0 <;> cases m.getLsbD 1 <;> rfl
@[simp] theorem State.onChannels_draws (s : State) (m : BitVec 2) (f : Chan → Channel → Channel) : (s.onChannels m f).draws = s.draws := by unfold State.onChannels; cases m.getLsbD 0 <;> cases m.getLsbD 1 <;> rfl
@[simp] theorem State.onChannels_cmdLoss (s : State) (m : BitVec 2) (f : Chan → Channel → Channel) : (s.onChannels m f).cmdLoss = s.cmdLoss := by unfold State.onChannels; cases m.getLsbD 0 <;> cases m.getLsbD 1 <;> rfl
@[simp] theorem State.onChannels_cmdLost (s : State) (m : BitVec 2) (f : Chan → Channel → Channel) : (s.onChannels m f).cmdLost = s.cmdLost := by simp [State.cmdLost]

/-! flushCmd -/

@[simp] theorem State.flushCmd_ie (s : State) : (s.flushCmd).ie = s.ie := by unfold State.flushCmd; split <;> rfl
@[simp] theorem State.flushCmd_halt (s : State) : (s.flushCmd).halt = s.halt := by unfold State.flushCmd; split <;> rfl
@[simp] theorem State.flushCmd_errCause (s : State) : (s.flushCmd).errCause = s.errCause := by unfold State.flushCmd; split <;> rfl
@[simp] theorem State.flushCmd_errCmd (s : State) : (s.flushCmd).errCmd = s.errCmd := by unfold State.flushCmd; split <;> rfl
@[simp] theorem State.flushCmd_errCp (s : State) : (s.flushCmd).errCp = s.errCp := by unfold State.flushCmd; split <;> rfl
@[simp] theorem State.flushCmd_cp (s : State) : (s.flushCmd).cp = s.cp := by unfold State.flushCmd; split <;> rfl
@[simp] theorem State.flushCmd_rspFifo (s : State) : (s.flushCmd).rspFifo = s.rspFifo := by unfold State.flushCmd; split <;> rfl
@[simp] theorem State.flushCmd_glob (s : State) : (s.flushCmd).glob = s.glob := by unfold State.flushCmd; split <;> rfl
@[simp] theorem State.flushCmd_chL (s : State) : (s.flushCmd).chL = s.chL := by unfold State.flushCmd; split <;> rfl
@[simp] theorem State.flushCmd_chR (s : State) : (s.flushCmd).chR = s.chR := by unfold State.flushCmd; split <;> rfl
@[simp] theorem State.flushCmd_x (s : State) : (s.flushCmd).x = s.x := by unfold State.flushCmd; split <;> rfl
@[simp] theorem State.flushCmd_mem (s : State) : (s.flushCmd).mem = s.mem := by unfold State.flushCmd; split <;> rfl
@[simp] theorem State.flushCmd_written (s : State) : (s.flushCmd).written = s.written := by unfold State.flushCmd; split <;> rfl
@[simp] theorem State.flushCmd_script (s : State) : (s.flushCmd).script = s.script := by unfold State.flushCmd; split <;> rfl
@[simp] theorem State.flushCmd_hostReads (s : State) : (s.flushCmd).hostReads = s.hostReads := by unfold State.flushCmd; split <;> rfl
@[simp] theorem State.flushCmd_draws (s : State) : (s.flushCmd).draws = s.draws := by unfold State.flushCmd; split <;> rfl
@[simp] theorem State.flushCmd_cmdLoss (s : State) : (s.flushCmd).cmdLoss = s.cmdLoss := by unfold State.flushCmd; split <;> rfl
@[simp] theorem State.flushCmd_cmdLost (s : State) : (s.flushCmd).cmdLost = s.cmdLost := by simp [State.cmdLost]

@[simp] theorem State.flushCmd_cmdFifo (s : State) : s.flushCmd.cmdFifo = [] := by
  unfold State.flushCmd
  split <;> simp_all

/-! answerResult -/

@[simp] theorem State.answerResult_ie (s : State) (v : Word) : (s.answerResult v).ie = s.ie := by unfold State.answerResult; split <;> rfl
@[simp] theorem State.answerResult_ip (s : State) (v : Word) : (s.answerResult v).ip = s.ip := by unfold State.answerResult; split <;> rfl
@[simp] theorem State.answerResult_halt (s : State) (v : Word) : (s.answerResult v).halt = s.halt := by unfold State.answerResult; split <;> rfl
@[simp] theorem State.answerResult_errCause (s : State) (v : Word) : (s.answerResult v).errCause = s.errCause := by unfold State.answerResult; split <;> rfl
@[simp] theorem State.answerResult_errCmd (s : State) (v : Word) : (s.answerResult v).errCmd = s.errCmd := by unfold State.answerResult; split <;> rfl
@[simp] theorem State.answerResult_errCp (s : State) (v : Word) : (s.answerResult v).errCp = s.errCp := by unfold State.answerResult; split <;> rfl
@[simp] theorem State.answerResult_cp (s : State) (v : Word) : (s.answerResult v).cp = s.cp := by unfold State.answerResult; split <;> rfl
@[simp] theorem State.answerResult_cmdFifo (s : State) (v : Word) : (s.answerResult v).cmdFifo = s.cmdFifo := by unfold State.answerResult; split <;> rfl
@[simp] theorem State.answerResult_rspFifo (s : State) (v : Word) : (s.answerResult v).rspFifo = s.rspFifo := by unfold State.answerResult; split <;> rfl
@[simp] theorem State.answerResult_glob (s : State) (v : Word) : (s.answerResult v).glob = s.glob := by unfold State.answerResult; split <;> rfl
@[simp] theorem State.answerResult_chL (s : State) (v : Word) : (s.answerResult v).chL = s.chL := by unfold State.answerResult; split <;> rfl
@[simp] theorem State.answerResult_chR (s : State) (v : Word) : (s.answerResult v).chR = s.chR := by unfold State.answerResult; split <;> rfl
@[simp] theorem State.answerResult_x (s : State) (v : Word) : (s.answerResult v).x = s.x := by unfold State.answerResult; split <;> rfl
@[simp] theorem State.answerResult_mem (s : State) (v : Word) : (s.answerResult v).mem = s.mem := by unfold State.answerResult; split <;> rfl
@[simp] theorem State.answerResult_written (s : State) (v : Word) : (s.answerResult v).written = s.written := by unfold State.answerResult; split <;> rfl
@[simp] theorem State.answerResult_script (s : State) (v : Word) : (s.answerResult v).script = s.script := by unfold State.answerResult; split <;> rfl
@[simp] theorem State.answerResult_cmdLoss (s : State) (v : Word) : (s.answerResult v).cmdLoss = s.cmdLoss := by unfold State.answerResult; split <;> rfl
@[simp] theorem State.answerResult_cmdLost (s : State) (v : Word) : (s.answerResult v).cmdLost = s.cmdLost := by simp [State.cmdLost]

/-! answerBits -/

@[simp] theorem State.answerBits_ie (s : State) (mask v : Word) : (s.answerBits mask v).ie = s.ie := by unfold State.answerBits; split <;> rfl
@[simp] theorem State.answerBits_ip (s : State) (mask v : Word) : (s.answerBits mask v).ip = s.ip := by unfold State.answerBits; split <;> rfl
@[simp] theorem State.answerBits_halt (s : State) (mask v : Word) : (s.answerBits mask v).halt = s.halt := by unfold State.answerBits; split <;> rfl
@[simp] theorem State.answerBits_errCause (s : State) (mask v : Word) : (s.answerBits mask v).errCause = s.errCause := by unfold State.answerBits; split <;> rfl
@[simp] theorem State.answerBits_errCmd (s : State) (mask v : Word) : (s.answerBits mask v).errCmd = s.errCmd := by unfold State.answerBits; split <;> rfl
@[simp] theorem State.answerBits_errCp (s : State) (mask v : Word) : (s.answerBits mask v).errCp = s.errCp := by unfold State.answerBits; split <;> rfl
@[simp] theorem State.answerBits_cp (s : State) (mask v : Word) : (s.answerBits mask v).cp = s.cp := by unfold State.answerBits; split <;> rfl
@[simp] theorem State.answerBits_cmdFifo (s : State) (mask v : Word) : (s.answerBits mask v).cmdFifo = s.cmdFifo := by unfold State.answerBits; split <;> rfl
@[simp] theorem State.answerBits_rspFifo (s : State) (mask v : Word) : (s.answerBits mask v).rspFifo = s.rspFifo := by unfold State.answerBits; split <;> rfl
@[simp] theorem State.answerBits_glob (s : State) (mask v : Word) : (s.answerBits mask v).glob = s.glob := by unfold State.answerBits; split <;> rfl
@[simp] theorem State.answerBits_chL (s : State) (mask v : Word) : (s.answerBits mask v).chL = s.chL := by unfold State.answerBits; split <;> rfl
@[simp] theorem State.answerBits_chR (s : State) (mask v : Word) : (s.answerBits mask v).chR = s.chR := by unfold State.answerBits; split <;> rfl
@[simp] theorem State.answerBits_x (s : State) (mask v : Word) : (s.answerBits mask v).x = s.x := by unfold State.answerBits; split <;> rfl
@[simp] theorem State.answerBits_mem (s : State) (mask v : Word) : (s.answerBits mask v).mem = s.mem := by unfold State.answerBits; split <;> rfl
@[simp] theorem State.answerBits_written (s : State) (mask v : Word) : (s.answerBits mask v).written = s.written := by unfold State.answerBits; split <;> rfl
@[simp] theorem State.answerBits_script (s : State) (mask v : Word) : (s.answerBits mask v).script = s.script := by unfold State.answerBits; split <;> rfl
@[simp] theorem State.answerBits_cmdLoss (s : State) (mask v : Word) : (s.answerBits mask v).cmdLoss = s.cmdLoss := by unfold State.answerBits; split <;> rfl
@[simp] theorem State.answerBits_cmdLost (s : State) (mask v : Word) : (s.answerBits mask v).cmdLost = s.cmdLost := by simp [State.cmdLost]

/-! noteCheck -/

@[simp] theorem State.noteCheck_ie (s : State) : (s.noteCheck).ie = s.ie := by unfold State.noteCheck; split <;> rfl
@[simp] theorem State.noteCheck_ip (s : State) : (s.noteCheck).ip = s.ip := by unfold State.noteCheck; split <;> rfl
@[simp] theorem State.noteCheck_halt (s : State) : (s.noteCheck).halt = s.halt := by unfold State.noteCheck; split <;> rfl
@[simp] theorem State.noteCheck_errCause (s : State) : (s.noteCheck).errCause = s.errCause := by unfold State.noteCheck; split <;> rfl
@[simp] theorem State.noteCheck_errCmd (s : State) : (s.noteCheck).errCmd = s.errCmd := by unfold State.noteCheck; split <;> rfl
@[simp] theorem State.noteCheck_errCp (s : State) : (s.noteCheck).errCp = s.errCp := by unfold State.noteCheck; split <;> rfl
@[simp] theorem State.noteCheck_cp (s : State) : (s.noteCheck).cp = s.cp := by unfold State.noteCheck; split <;> rfl
@[simp] theorem State.noteCheck_cmdFifo (s : State) : (s.noteCheck).cmdFifo = s.cmdFifo := by unfold State.noteCheck; split <;> rfl
@[simp] theorem State.noteCheck_rspFifo (s : State) : (s.noteCheck).rspFifo = s.rspFifo := by unfold State.noteCheck; split <;> rfl
@[simp] theorem State.noteCheck_glob (s : State) : (s.noteCheck).glob = s.glob := by unfold State.noteCheck; split <;> rfl
@[simp] theorem State.noteCheck_chL (s : State) : (s.noteCheck).chL = s.chL := by unfold State.noteCheck; split <;> rfl
@[simp] theorem State.noteCheck_chR (s : State) : (s.noteCheck).chR = s.chR := by unfold State.noteCheck; split <;> rfl
@[simp] theorem State.noteCheck_x (s : State) : (s.noteCheck).x = s.x := by unfold State.noteCheck; split <;> rfl
@[simp] theorem State.noteCheck_mem (s : State) : (s.noteCheck).mem = s.mem := by unfold State.noteCheck; split <;> rfl
@[simp] theorem State.noteCheck_written (s : State) : (s.noteCheck).written = s.written := by unfold State.noteCheck; split <;> rfl
@[simp] theorem State.noteCheck_script (s : State) : (s.noteCheck).script = s.script := by unfold State.noteCheck; split <;> rfl
@[simp] theorem State.noteCheck_hostReads (s : State) : (s.noteCheck).hostReads = s.hostReads := by unfold State.noteCheck; split <;> rfl
@[simp] theorem State.noteCheck_draws (s : State) : (s.noteCheck).draws = s.draws := by unfold State.noteCheck; split <;> rfl

/-! recoverCmd -/

@[simp] theorem State.recoverCmd_ie (s : State) : (s.recoverCmd).ie = s.ie := by unfold State.recoverCmd; split <;> rfl
@[simp] theorem State.recoverCmd_ip (s : State) : (s.recoverCmd).ip = s.ip := by unfold State.recoverCmd; split <;> rfl
@[simp] theorem State.recoverCmd_halt (s : State) : (s.recoverCmd).halt = s.halt := by unfold State.recoverCmd; split <;> rfl
@[simp] theorem State.recoverCmd_errCause (s : State) : (s.recoverCmd).errCause = s.errCause := by unfold State.recoverCmd; split <;> rfl
@[simp] theorem State.recoverCmd_errCmd (s : State) : (s.recoverCmd).errCmd = s.errCmd := by unfold State.recoverCmd; split <;> rfl
@[simp] theorem State.recoverCmd_errCp (s : State) : (s.recoverCmd).errCp = s.errCp := by unfold State.recoverCmd; split <;> rfl
@[simp] theorem State.recoverCmd_cp (s : State) : (s.recoverCmd).cp = s.cp := by unfold State.recoverCmd; split <;> rfl
@[simp] theorem State.recoverCmd_cmdFifo (s : State) : (s.recoverCmd).cmdFifo = s.cmdFifo := by unfold State.recoverCmd; split <;> rfl
@[simp] theorem State.recoverCmd_rspFifo (s : State) : (s.recoverCmd).rspFifo = s.rspFifo := by unfold State.recoverCmd; split <;> rfl
@[simp] theorem State.recoverCmd_glob (s : State) : (s.recoverCmd).glob = s.glob := by unfold State.recoverCmd; split <;> rfl
@[simp] theorem State.recoverCmd_chL (s : State) : (s.recoverCmd).chL = s.chL := by unfold State.recoverCmd; split <;> rfl
@[simp] theorem State.recoverCmd_chR (s : State) : (s.recoverCmd).chR = s.chR := by unfold State.recoverCmd; split <;> rfl
@[simp] theorem State.recoverCmd_x (s : State) : (s.recoverCmd).x = s.x := by unfold State.recoverCmd; split <;> rfl
@[simp] theorem State.recoverCmd_mem (s : State) : (s.recoverCmd).mem = s.mem := by unfold State.recoverCmd; split <;> rfl
@[simp] theorem State.recoverCmd_written (s : State) : (s.recoverCmd).written = s.written := by unfold State.recoverCmd; split <;> rfl
@[simp] theorem State.recoverCmd_script (s : State) : (s.recoverCmd).script = s.script := by unfold State.recoverCmd; split <;> rfl
@[simp] theorem State.recoverCmd_hostReads (s : State) : (s.recoverCmd).hostReads = s.hostReads := by unfold State.recoverCmd; split <;> rfl
@[simp] theorem State.recoverCmd_draws (s : State) : (s.recoverCmd).draws = s.draws := by unfold State.recoverCmd; split <;> rfl

end Sys2Proof.Machine
end

