-- ==== Sys2Proof/Laws/Memory.lean ====
section
/-!
SUPPORT. The laws of memory and of the two other sparse containers: every operation keeps the canonical form, a read
after a write to the same place gives the value written, and a write leaves every other place alone.
-/

namespace Sys2Proof.Machine

/-! ### Rising lists of keys -/

theorem risingFrom_weaken {p q : Nat} {l : List Nat} (h : q ≤ p) (hl : risingFrom (some p) l = true) :
    risingFrom (some q) l = true := by
  cases l with
  | nil => rfl
  | cons k ks =>
    simp only [risingFrom, Bool.and_eq_true, decide_eq_true_eq] at hl ⊢
    exact ⟨by omega, hl.2⟩

theorem risingFrom_none {p : Nat} {l : List Nat} (hl : risingFrom (some p) l = true) : risingFrom none l = true := by
  cases l with
  | nil => rfl
  | cons k ks =>
    simp only [risingFrom, Bool.and_eq_true] at hl ⊢
    exact hl.2

theorem risingFrom_lt {p : Nat} {l : List Nat} (hl : risingFrom (some p) l = true) : ∀ x ∈ l, p < x := by
  induction l generalizing p with
  | nil => simp
  | cons k ks ih =>
    simp only [risingFrom, Bool.and_eq_true, decide_eq_true_eq] at hl
    intro x hx
    rcases List.mem_cons.1 hx with rfl | hx
    · exact hl.1
    · exact lt_trans hl.1 (ih hl.2 x hx)

theorem insertAddr_rising_some {p a : Nat} {l : List Nat} (hp : p < a) (hl : risingFrom (some p) l = true) :
    risingFrom (some p) (insertAddr a l) = true := by
  induction l generalizing p with
  | nil => simp [insertAddr, risingFrom, hp]
  | cons k ks ih =>
    simp only [risingFrom, Bool.and_eq_true, decide_eq_true_eq] at hl
    unfold insertAddr
    split
    · simp [risingFrom, hl.2, *]
    · split
      · simp [risingFrom, hl.1, hl.2]
      · simp only [risingFrom, Bool.and_eq_true, decide_eq_true_eq]
        exact ⟨hl.1, ih (by omega) hl.2⟩

/-- The written set stays strictly rising. -/
theorem insertAddr_rising {a : Nat} {l : List Nat} (hl : risingFrom none l = true) :
    risingFrom none (insertAddr a l) = true := by
  cases l with
  | nil => rfl
  | cons k ks =>
    simp only [risingFrom] at hl
    unfold insertAddr
    split
    · simp [risingFrom, *]
    · split
      · simpa [risingFrom] using hl
      · simp only [risingFrom]
        exact insertAddr_rising_some (by omega) hl

/-- An inserted address is there, and no other comes or goes. -/
@[simp] theorem mem_insertAddr {a b : Nat} {l : List Nat} : b ∈ insertAddr a l ↔ b = a ∨ b ∈ l := by
  induction l with
  | nil => simp [insertAddr]
  | cons k ks ih =>
    unfold insertAddr
    split
    · simp
    · split
      · subst_vars; simp
      · simp only [List.mem_cons, ih]; tauto

/-! ### Bytes -/

theorem writeByte_rising_some {p a : Nat} {m : Mem} {b : Byte} (hp : p < a)
    (hm : risingFrom (some p) (m.map Prod.fst) = true) :
    risingFrom (some p) ((Mem.writeByte m a b).map Prod.fst) = true := by
  induction m generalizing p with
  | nil => simp [Mem.writeByte, risingFrom, hp]
  | cons c rest ih =>
    obtain ⟨k, c⟩ := c
    simp only [List.map_cons, risingFrom, Bool.and_eq_true, decide_eq_true_eq] at hm
    unfold Mem.writeByte
    split
    · simp [risingFrom, hm.2, *]
    · split
      · subst_vars; simp [risingFrom, hm.1, hm.2]
      · simp only [List.map_cons, risingFrom, Bool.and_eq_true, decide_eq_true_eq]
        exact ⟨hm.1, ih (by omega) hm.2⟩

/-- Storing a byte keeps the canonical form. -/
theorem Mem.writeByte_wf {m : Mem} {a : Nat} {b : Byte} (hm : m.wf = true) : (m.writeByte a b).wf = true := by
  unfold Mem.wf at *
  cases m with
  | nil => rfl
  | cons c rest =>
    obtain ⟨k, c⟩ := c
    simp only [List.map_cons, risingFrom] at hm
    unfold Mem.writeByte
    split
    · simp [risingFrom, *]
    · split
      · subst_vars; simpa [risingFrom] using hm
      · simp only [List.map_cons, risingFrom]
        exact writeByte_rising_some (by omega) hm

/-- A byte read after a byte store: the byte stored there, or what was there before. -/
theorem Mem.readByte_writeByte (m : Mem) (a x : Nat) (b : Byte) :
    (m.writeByte a b).readByte x = if x = a then some b else m.readByte x := by
  induction m with
  | nil => simp only [Mem.writeByte, Mem.readByte]; split <;> split <;> simp_all
  | cons c rest ih =>
    obtain ⟨k, c⟩ := c
    unfold Mem.writeByte
    split
    · simp only [Mem.readByte]; grind
    · split
      · subst_vars; simp only [Mem.readByte]; grind
      · simp only [Mem.readByte, ih]; grind

/-! ### Words -/

/-- Storing a word keeps the canonical form. -/
theorem Mem.writeWord_wf {m : Mem} {a : Nat} {w : Word} (hm : m.wf = true) : (m.writeWord a w).wf = true :=
  Mem.writeByte_wf (Mem.writeByte_wf (Mem.writeByte_wf (Mem.writeByte_wf hm)))

/-- A byte outside a stored word reads as before. -/
theorem Mem.readByte_writeWord_of_not_mem {m : Mem} {a x : Nat} {w : Word} (h : x < a ∨ a + 4 ≤ x) :
    (m.writeWord a w).readByte x = m.readByte x := by
  simp only [Mem.writeWord, Mem.readByte_writeByte]
  repeat' (split; omega)
  rfl

/-- The word read where a word was stored. -/
@[simp] theorem Mem.readWord_writeWord_self (m : Mem) (a : Nat) (w : Word) : (m.writeWord a w).readWord a = some w := by
  have h0 : (m.writeWord a w).readByte a = some (w.extractLsb' 0 8) := by
    simp [Mem.writeWord, Mem.readByte_writeByte]
  have h1 : (m.writeWord a w).readByte (a + 1) = some (w.extractLsb' 8 8) := by
    simp [Mem.writeWord, Mem.readByte_writeByte]
  have h2 : (m.writeWord a w).readByte (a + 2) = some (w.extractLsb' 16 8) := by
    simp [Mem.writeWord, Mem.readByte_writeByte]
  have h3 : (m.writeWord a w).readByte (a + 3) = some (w.extractLsb' 24 8) := by
    simp [Mem.writeWord, Mem.readByte_writeByte]
  simp only [Mem.readWord, h0, h1, h2, h3, Option.some.injEq]
  unfold Word.ofBytes
  ext i hi
  simp only [BitVec.getElem_append, BitVec.getElem_extractLsb']
  grind

/-- A word that does not overlap a stored word reads as before. -/
theorem Mem.readWord_writeWord_of_disjoint {m : Mem} {a x : Nat} {w : Word} (h : x + 4 ≤ a ∨ a + 4 ≤ x) :
    (m.writeWord a w).readWord x = m.readWord x := by
  unfold Mem.readWord
  rw [Mem.readByte_writeWord_of_not_mem (by omega), Mem.readByte_writeWord_of_not_mem (by omega),
    Mem.readByte_writeWord_of_not_mem (by omega), Mem.readByte_writeWord_of_not_mem (by omega)]

/-! ### The memory of a state -/

theorem State.storeWord_memWf {s : State} {a : Nat} {w : Word} (h : s.memWf = true) : (s.storeWord a w).memWf = true := by
  simp only [State.memWf, Bool.and_eq_true] at h ⊢
  exact ⟨Mem.writeWord_wf h.1, insertAddr_rising h.2⟩

theorem State.pokeWord_memWf {s : State} {a : Nat} {w : Word} (h : s.memWf = true) : (s.pokeWord a w).memWf = true := by
  simp only [State.memWf, Bool.and_eq_true] at h ⊢
  exact ⟨Mem.writeWord_wf h.1, h.2⟩

/-- A block store keeps the canonical form. -/
theorem State.storeFrom_memWf (r : Region) (k : Nat) (vs : List F32) {s : State} (h : s.memWf = true) :
    (State.storeFrom r k vs s).memWf = true := by
  induction vs generalizing k s with
  | nil => exact h
  | cons v vs ih => exact ih (k + 1) (State.storeWord_memWf h)

/-- A block store changes the memory and the written set, and nothing else. -/
theorem State.storeFrom_eq (r : Region) (k : Nat) (vs : List F32) (s : State) :
    { State.storeFrom r k vs s with mem := s.mem, written := s.written } = s := by
  induction vs generalizing k s with
  | nil => rfl
  | cons v vs ih =>
    have h := ih (k + 1) (s.storeWord (r.addr k) v.bits)
    have := congrArg (fun t : State => { t with mem := s.mem, written := s.written }) h
    exact this

@[simp] theorem State.storeFrom_ie (r : Region) (k : Nat) (vs : List F32) (s : State) :
    (State.storeFrom r k vs s).ie = s.ie := (congrArg State.ie (State.storeFrom_eq r k vs s) :)
@[simp] theorem State.storeFrom_ip (r : Region) (k : Nat) (vs : List F32) (s : State) :
    (State.storeFrom r k vs s).ip = s.ip := (congrArg State.ip (State.storeFrom_eq r k vs s) :)
@[simp] theorem State.storeFrom_halt (r : Region) (k : Nat) (vs : List F32) (s : State) :
    (State.storeFrom r k vs s).halt = s.halt := (congrArg State.halt (State.storeFrom_eq r k vs s) :)
@[simp] theorem State.storeFrom_errCause (r : Region) (k : Nat) (vs : List F32) (s : State) :
    (State.storeFrom r k vs s).errCause = s.errCause := (congrArg State.errCause (State.storeFrom_eq r k vs s) :)
@[simp] theorem State.storeFrom_errCmd (r : Region) (k : Nat) (vs : List F32) (s : State) :
    (State.storeFrom r k vs s).errCmd = s.errCmd := (congrArg State.errCmd (State.storeFrom_eq r k vs s) :)
@[simp] theorem State.storeFrom_errCp (r : Region) (k : Nat) (vs : List F32) (s : State) :
    (State.storeFrom r k vs s).errCp = s.errCp := (congrArg State.errCp (State.storeFrom_eq r k vs s) :)
@[simp] theorem State.storeFrom_cp (r : Region) (k : Nat) (vs : List F32) (s : State) :
    (State.storeFrom r k vs s).cp = s.cp := (congrArg State.cp (State.storeFrom_eq r k vs s) :)
@[simp] theorem State.storeFrom_cmdFifo (r : Region) (k : Nat) (vs : List F32) (s : State) :
    (State.storeFrom r k vs s).cmdFifo = s.cmdFifo := (congrArg State.cmdFifo (State.storeFrom_eq r k vs s) :)
@[simp] theorem State.storeFrom_rspFifo (r : Region) (k : Nat) (vs : List F32) (s : State) :
    (State.storeFrom r k vs s).rspFifo = s.rspFifo := (congrArg State.rspFifo (State.storeFrom_eq r k vs s) :)
@[simp] theorem State.storeFrom_glob (r : Region) (k : Nat) (vs : List F32) (s : State) :
    (State.storeFrom r k vs s).glob = s.glob := (congrArg State.glob (State.storeFrom_eq r k vs s) :)
@[simp] theorem State.storeFrom_chL (r : Region) (k : Nat) (vs : List F32) (s : State) :
    (State.storeFrom r k vs s).chL = s.chL := (congrArg State.chL (State.storeFrom_eq r k vs s) :)
@[simp] theorem State.storeFrom_chR (r : Region) (k : Nat) (vs : List F32) (s : State) :
    (State.storeFrom r k vs s).chR = s.chR := (congrArg State.chR (State.storeFrom_eq r k vs s) :)
@[simp] theorem State.storeFrom_x (r : Region) (k : Nat) (vs : List F32) (s : State) :
    (State.storeFrom r k vs s).x = s.x := (congrArg State.x (State.storeFrom_eq r k vs s) :)
@[simp] theorem State.storeFrom_script (r : Region) (k : Nat) (vs : List F32) (s : State) :
    (State.storeFrom r k vs s).script = s.script := (congrArg State.script (State.storeFrom_eq r k vs s) :)
@[simp] theorem State.storeFrom_hostReads (r : Region) (k : Nat) (vs : List F32) (s : State) :
    (State.storeFrom r k vs s).hostReads = s.hostReads := (congrArg State.hostReads (State.storeFrom_eq r k vs s) :)
@[simp] theorem State.storeFrom_draws (r : Region) (k : Nat) (vs : List F32) (s : State) :
    (State.storeFrom r k vs s).draws = s.draws := (congrArg State.draws (State.storeFrom_eq r k vs s) :)
@[simp] theorem State.storeFrom_cmdLoss (r : Region) (k : Nat) (vs : List F32) (s : State) :
    (State.storeFrom r k vs s).cmdLoss = s.cmdLoss := (congrArg State.cmdLoss (State.storeFrom_eq r k vs s) :)

/-- A byte outside a block store reads as before. -/
theorem State.storeFrom_readByte (r : Region) (k : Nat) (vs : List F32) (s : State) {x : Nat}
    (h : x < r.addr k ∨ r.addr k + 4 * vs.length ≤ x) :
    (State.storeFrom r k vs s).mem.readByte x = s.mem.readByte x := by
  induction vs generalizing k s with
  | nil => rfl
  | cons v vs ih =>
    simp only [Region.addr, List.length_cons] at h
    rw [State.storeFrom, ih (k + 1) _ (by simp only [Region.addr]; omega), State.storeWord_mem,
      Mem.readByte_writeWord_of_not_mem (by simp only [Region.addr]; omega)]

/-- A word outside a block store reads as before. -/
theorem State.storeFrom_readWord (r : Region) (k : Nat) (vs : List F32) (s : State) {x : Nat}
    (h : x + 4 ≤ r.addr k ∨ r.addr k + 4 * vs.length ≤ x) :
    (State.storeFrom r k vs s).mem.readWord x = s.mem.readWord x := by
  unfold Mem.readWord
  rw [State.storeFrom_readByte _ _ _ _ (by omega), State.storeFrom_readByte _ _ _ _ (by omega),
    State.storeFrom_readByte _ _ _ _ (by omega), State.storeFrom_readByte _ _ _ _ (by omega)]

/-- Word j of a block store. -/
theorem State.storeFrom_word (r : Region) (k : Nat) (vs : List F32) (s : State) {j : Nat} {v : F32}
    (h : vs[j]? = some v) : (State.storeFrom r k vs s).mem.readWord (r.addr (k + j)) = some v.bits := by
  induction vs generalizing k s j with
  | nil => simp at h
  | cons u us ih =>
    cases j with
    | zero =>
      simp only [List.getElem?_cons_zero, Option.some.injEq] at h
      subst h
      rw [State.storeFrom, State.storeFrom_readWord _ _ _ _ (by simp only [Region.addr]; omega)]
      simp
    | succ j =>
      simp only [List.getElem?_cons_succ] at h
      have := ih (k + 1) (s.storeWord (r.addr k) u.bits) h
      rwa [show k + 1 + j = k + (j + 1) by omega] at this

/-- The words a block store marks as written. -/
theorem State.storeFrom_written (r : Region) (k : Nat) (vs : List F32) (s : State) (x : Nat) :
    x ∈ (State.storeFrom r k vs s).written ↔ x ∈ s.written ∨ ∃ j < vs.length, x = r.addr (k + j) := by
  induction vs generalizing k s with
  | nil => simp [State.storeFrom]
  | cons v vs ih =>
    rw [State.storeFrom, ih]
    simp only [State.storeWord_written, mem_insertAddr, List.length_cons]
    constructor
    · rintro ((h | h) | ⟨j, hj, rfl⟩)
      · exact .inr ⟨0, by omega, h⟩
      · exact .inl h
      · exact .inr ⟨j + 1, by omega, by rw [show k + 1 + j = k + (j + 1) by omega]⟩
    · rintro (h | ⟨j, hj, rfl⟩)
      · exact .inl (.inr h)
      · cases j with
        | zero => exact .inl (.inl rfl)
        | succ j => exact .inr ⟨j, by omega, by rw [show k + 1 + j = k + (j + 1) by omega]⟩

/-- Reset memory is in canonical form. -/
theorem State.resetWith_memWf (T : Transc) : (State.resetWith T).memWf = true := rfl

/-! ### Sample buffers -/

/-- Cell j after cell i is set. -/
theorem Buf.get_put {i j : Nat} {x : F32} {rest : Buf} (h : Buf.get rest i = F32.zero) :
    Buf.get (Buf.put i x rest) j = if j = i then x else Buf.get rest j := by
  unfold Buf.put
  split
  · subst_vars; split
    · subst_vars; exact h
    · rfl
  · simp only [Buf.get]; grind

/-- The first key of a buffer is above p. -/
def Buf.above (p : Nat) : Buf → Prop
  | [] => True
  | (j, _) :: _ => p < j

theorem Buf.wf_cons {j : Nat} {x : F32} {rest : Buf} (h : Buf.wf ((j, x) :: rest) = true) :
    x ≠ F32.zero ∧ Buf.above j rest ∧ Buf.wf rest = true := by
  cases rest with
  | nil => simp_all [Buf.wf, Buf.above]
  | cons c rest =>
    obtain ⟨k, c⟩ := c
    simp only [Buf.wf, Bool.and_eq_true, bne_iff_ne, decide_eq_true_eq] at h
    exact ⟨h.1.1, h.1.2, by simpa [Buf.wf, Bool.and_eq_true] using h.2⟩

theorem Buf.wf_of_cons {j : Nat} {x : F32} {rest : Buf} (hx : x ≠ F32.zero) (ha : Buf.above j rest)
    (h : Buf.wf rest = true) : Buf.wf ((j, x) :: rest) = true := by
  cases rest with
  | nil => simp [Buf.wf, hx]
  | cons c rest =>
    obtain ⟨k, c⟩ := c
    simp only [Buf.wf, Bool.and_eq_true, bne_iff_ne, decide_eq_true_eq] at h ⊢
    exact ⟨⟨hx, ha⟩, h⟩

theorem Buf.above_trans {p q : Nat} {b : Buf} (hpq : p ≤ q) (h : Buf.above q b) : Buf.above p b := by
  cases b with
  | nil => trivial
  | cons c rest => exact lt_of_le_of_lt hpq h

theorem Buf.get_of_above {p : Nat} {b : Buf} (hw : Buf.wf b = true) (h : Buf.above p b) {i : Nat} (hi : i ≤ p) :
    Buf.get b i = F32.zero := by
  induction b generalizing p with
  | nil => rfl
  | cons c rest ih =>
    obtain ⟨j, x⟩ := c
    have ⟨_, ha, hr⟩ := Buf.wf_cons hw
    simp only [Buf.above] at h
    simp only [Buf.get]
    rw [if_neg (by omega)]
    exact ih hr ha (by omega)

theorem Buf.above_put {p i : Nat} {x : F32} {b : Buf} (hi : p < i) (h : Buf.above p b) : Buf.above p (Buf.put i x b) := by
  unfold Buf.put
  split
  · exact h
  · exact hi

theorem Buf.wf_put {i : Nat} {x : F32} {b : Buf} (ha : Buf.above i b) (h : Buf.wf b = true) :
    Buf.wf (Buf.put i x b) = true := by
  unfold Buf.put
  split
  · exact h
  · exact Buf.wf_of_cons (by assumption) ha h

/-- Setting a cell keeps the canonical form. -/
theorem Buf.set_wf {b : Buf} {i : Nat} {x : F32} (h : Buf.wf b = true) :
    Buf.wf (Buf.set b i x) = true ∧ ∀ p, p < i → Buf.above p b → Buf.above p (Buf.set b i x) := by
  induction b with
  | nil => exact ⟨Buf.wf_put trivial rfl, fun p hp _ => Buf.above_put hp trivial⟩
  | cons c rest ih =>
    obtain ⟨j, y⟩ := c
    have ⟨hy, ha, hr⟩ := Buf.wf_cons h
    unfold Buf.set
    split
    · exact ⟨Buf.wf_put (by simpa [Buf.above]) h, fun p hp hb => Buf.above_put hp hb⟩
    · split
      · subst_vars
        exact ⟨Buf.wf_put ha hr, fun p hp _ => Buf.above_put hp (Buf.above_trans (le_of_lt hp) ha)⟩
      · exact ⟨Buf.wf_of_cons hy ((ih hr).2 j (by omega) ha) (ih hr).1, fun p _ hb => hb⟩

/-- A cell read after a cell is set: the value set there, or what was there before. -/
theorem Buf.get_set {b : Buf} (h : Buf.wf b = true) (i j : Nat) (x : F32) :
    Buf.get (Buf.set b i x) j = if j = i then x else Buf.get b j := by
  induction b with
  | nil => exact Buf.get_put rfl
  | cons c rest ih =>
    obtain ⟨k, y⟩ := c
    have ⟨hy, ha, hr⟩ := Buf.wf_cons h
    unfold Buf.set
    split
    · exact Buf.get_put (Buf.get_of_above h (p := i) (by simpa [Buf.above]) le_rfl)
    · split
      · subst_vars
        rw [Buf.get_put (Buf.get_of_above hr ha le_rfl)]
        simp only [Buf.get]; grind
      · simp only [Buf.get, ih hr]; grind

end Sys2Proof.Machine
end

