-- ==== Sys2Proof/Laws/Units.lean ====
section
/-!
SUPPORT. The laws of the rows of twelve and of the units a reference names: what is read after it is replaced, and what
stays.
-/

set_option linter.unnecessarySeqFocus false

namespace Sys2Proof.Machine

/-! ### Twelve -/

theorem Twelve.get_set {α : Type} (t : Twelve α) (i j : Fin 12) (x : α) :
    (t.set i x).get j = if j = i then x else t.get j := by
  fin_cases i <;> fin_cases j <;> rfl

@[simp] theorem Twelve.get_set_self {α : Type} (t : Twelve α) (i : Fin 12) (x : α) : (t.set i x).get i = x := by
  simp [Twelve.get_set]

theorem Twelve.get_set_ne {α : Type} {i j : Fin 12} (h : j ≠ i) (t : Twelve α) (x : α) :
    (t.set i x).get j = t.get j := by
  simp [Twelve.get_set, h]

@[simp] theorem Twelve.get_map {α β : Type} (f : α → β) (t : Twelve α) (i : Fin 12) :
    (t.map f).get i = f (t.get i) := by
  fin_cases i <;> rfl

@[simp] theorem Twelve.get_mapIdx {α β : Type} (f : Fin 12 → α → β) (t : Twelve α) (i : Fin 12) :
    (t.mapIdx f).get i = f i (t.get i) := by
  fin_cases i <;> rfl

@[simp] theorem Twelve.get_ofFn {α : Type} (f : Fin 12 → α) (i : Fin 12) : (Twelve.ofFn f).get i = f i := by
  fin_cases i <;> rfl

/-- Two rows with the same elements are the same row. -/
theorem Twelve.ext_get {α : Type} {t u : Twelve α} (h : ∀ i, t.get i = u.get i) : t = u := by
  have h0 := h 0; have h1 := h 1; have h2 := h 2; have h3 := h 3; have h4 := h 4; have h5 := h 5
  have h6 := h 6; have h7 := h 7; have h8 := h 8; have h9 := h 9; have h10 := h 10; have h11 := h 11
  cases t; cases u
  simp only [Twelve.get] at *
  subst_vars
  rfl

/-- A property of all elements is a property of each. -/
theorem Twelve.all_iff {α : Type} (p : α → Bool) (t : Twelve α) : t.all p = true ↔ ∀ i, p (t.get i) = true := by
  constructor
  · intro h i
    simp only [Twelve.all, Bool.and_eq_true] at h
    obtain ⟨⟨⟨⟨⟨⟨⟨⟨⟨⟨⟨h0, h1⟩, h2⟩, h3⟩, h4⟩, h5⟩, h6⟩, h7⟩, h8⟩, h9⟩, h10⟩, h11⟩ := h
    fin_cases i <;> assumption
  · intro h
    simp only [Twelve.all, Bool.and_eq_true]
    exact ⟨⟨⟨⟨⟨⟨⟨⟨⟨⟨⟨h 0, h 1⟩, h 2⟩, h 3⟩, h 4⟩, h 5⟩, h 6⟩, h 7⟩, h 8⟩, h 9⟩, h 10⟩, h 11⟩

@[simp] theorem Twelve.set_get_self {α : Type} (t : Twelve α) (i : Fin 12) : t.set i (t.get i) = t := by
  apply Twelve.ext_get
  intro j
  rw [Twelve.get_set]
  split
  · subst_vars; rfl
  · rfl

/-- The indexes of a prefix of the twelve. -/
theorem mem_firstTwelve (n : Nat) (i : Fin 12) : i ∈ firstTwelve n ↔ i.val < n := by
  unfold firstTwelve
  match n with
  | 0 => simp
  | 1 => revert i; decide
  | 2 => revert i; decide
  | 3 => revert i; decide
  | 4 => revert i; decide
  | 5 => revert i; decide
  | 6 => revert i; decide
  | 7 => revert i; decide
  | 8 => revert i; decide
  | 9 => revert i; decide
  | 10 => revert i; decide
  | 11 => revert i; decide
  | n + 12 =>
    rw [List.take_of_length_le (by simp)]
    constructor
    · intro _; omega
    · intro _; fin_cases i <;> simp

theorem firstTwelve_nodup (n : Nat) : (firstTwelve n).Nodup := List.Nodup.sublist (List.take_sublist _ _) (by decide)

/-- Entry k of a prefix of the twelve is k. -/
theorem firstTwelve_getElem? (n : Nat) (k : Fin 12) (h : k.val < n) : (firstTwelve n)[k.val]? = some k := by
  have e : ∀ k : Fin 12, (firstTwelve 12)[k.val]? = some k := by decide
  unfold firstTwelve at *
  rw [List.getElem?_take, if_pos h]
  exact e k

/-- The first n indexes, in ascending order. -/
theorem firstTwelve_eq_filter (n : Nat) : firstTwelve n = (List.finRange 12).filter (fun k => decide (k.val < n)) := by
  by_cases h : 12 ≤ n
  · rw [List.filter_eq_self.2 (by intro a _; simp only [decide_eq_true_eq]; omega)]
    unfold firstTwelve
    rw [List.take_of_length_le (by simpa using h)]
    decide
  · have : n < 12 := by omega
    interval_cases n <;> decide

/-! ### Units by reference -/

section
variable (c : Channel)

@[simp] theorem Channel.onePole_setOnePole (r q : OnePoleRef) (u : OnePole) :
    (c.setOnePole r u).onePole q = if q = r then u else c.onePole q := by
  cases r <;> cases q <;> simp [Channel.setOnePole, Channel.onePole, Twelve.get_set] <;> grind

@[simp] theorem Channel.biquad_setOnePole (r : OnePoleRef) (q : BiquadRef) (u : OnePole) :
    (c.setOnePole r u).biquad q = c.biquad q := by
  cases r <;> cases q <;> simp [Channel.setOnePole, Channel.biquad, Twelve.get_set] <;> grind

@[simp] theorem Channel.mdly_setOnePole (r : OnePoleRef) (q : MdlyRef) (u : OnePole) :
    (c.setOnePole r u).mdly q = c.mdly q := by
  cases r <;> cases q <;> simp [Channel.setOnePole, Channel.mdly, Twelve.get_set] <;> grind

@[simp] theorem Channel.diff_setOnePole (r : OnePoleRef) (q : DiffRef) (u : OnePole) :
    (c.setOnePole r u).diff q = c.diff q := by
  cases r <;> cases q <;> simp [Channel.setOnePole, Channel.diff, Twelve.get_set] <;> grind

@[simp] theorem Channel.onePole_setBiquad (r : BiquadRef) (q : OnePoleRef) (u : Biquad) :
    (c.setBiquad r u).onePole q = c.onePole q := by
  cases r <;> cases q <;> simp [Channel.setBiquad, Channel.onePole, Twelve.get_set] <;> grind

@[simp] theorem Channel.biquad_setBiquad (r q : BiquadRef) (u : Biquad) :
    (c.setBiquad r u).biquad q = if q = r then u else c.biquad q := by
  cases r <;> cases q <;> simp [Channel.setBiquad, Channel.biquad, Twelve.get_set] <;> grind

@[simp] theorem Channel.mdly_setBiquad (r : BiquadRef) (q : MdlyRef) (u : Biquad) :
    (c.setBiquad r u).mdly q = c.mdly q := by
  cases r <;> cases q <;> simp [Channel.setBiquad, Channel.mdly, Twelve.get_set] <;> grind

@[simp] theorem Channel.diff_setBiquad (r : BiquadRef) (q : DiffRef) (u : Biquad) :
    (c.setBiquad r u).diff q = c.diff q := by
  cases r <;> cases q <;> simp [Channel.setBiquad, Channel.diff, Twelve.get_set] <;> grind

@[simp] theorem Channel.onePole_setMdly (r : MdlyRef) (q : OnePoleRef) (u : Tap) :
    (c.setMdly r u).onePole q = c.onePole q := by
  cases r <;> cases q <;> simp [Channel.setMdly, Channel.onePole, Twelve.get_set] <;> grind

@[simp] theorem Channel.biquad_setMdly (r : MdlyRef) (q : BiquadRef) (u : Tap) :
    (c.setMdly r u).biquad q = c.biquad q := by
  cases r <;> cases q <;> simp [Channel.setMdly, Channel.biquad, Twelve.get_set] <;> grind

@[simp] theorem Channel.mdly_setMdly (r q : MdlyRef) (u : Tap) :
    (c.setMdly r u).mdly q = if q = r then u else c.mdly q := by
  cases r <;> cases q <;> simp [Channel.setMdly, Channel.mdly, Twelve.get_set] <;> grind

@[simp] theorem Channel.diff_setMdly (r : MdlyRef) (q : DiffRef) (u : Tap) :
    (c.setMdly r u).diff q = c.diff q := by
  cases r <;> cases q <;> simp [Channel.setMdly, Channel.diff, Twelve.get_set] <;> grind

@[simp] theorem Channel.onePole_setDiff (r : DiffRef) (q : OnePoleRef) (u : Diff) :
    (c.setDiff r u).onePole q = c.onePole q := by
  cases r <;> cases q <;> simp [Channel.setDiff, Channel.onePole, Twelve.get_set] <;> grind

@[simp] theorem Channel.biquad_setDiff (r : DiffRef) (q : BiquadRef) (u : Diff) :
    (c.setDiff r u).biquad q = c.biquad q := by
  cases r <;> cases q <;> simp [Channel.setDiff, Channel.biquad, Twelve.get_set] <;> grind

@[simp] theorem Channel.mdly_setDiff (r : DiffRef) (q : MdlyRef) (u : Diff) :
    (c.setDiff r u).mdly q = c.mdly q := by
  cases r <;> cases q <;> simp [Channel.setDiff, Channel.mdly, Twelve.get_set] <;> grind

@[simp] theorem Channel.diff_setDiff (r q : DiffRef) (u : Diff) :
    (c.setDiff r u).diff q = if q = r then u else c.diff q := by
  cases r <;> cases q <;> simp [Channel.setDiff, Channel.diff, Twelve.get_set] <;> grind

/-! What replacing a unit keeps of a channel: its registers, its multi-tap and its derived values; and of each line its
gain and FIFO. -/

@[simp] theorem Channel.setOnePole_regs (r : OnePoleRef) (u : OnePole) : (c.setOnePole r u).regs = c.regs := by
  cases r <;> rfl
@[simp] theorem Channel.setOnePole_mt (r : OnePoleRef) (u : OnePole) : (c.setOnePole r u).mt = c.mt := by
  cases r <;> rfl
@[simp] theorem Channel.setOnePole_chanField (r : OnePoleRef) (u : OnePole) (f : ChanField) :
    (c.setOnePole r u).chanField f = c.chanField f := by
  cases r <;> cases f <;> rfl
@[simp] theorem Channel.setOnePole_gain (r : OnePoleRef) (u : OnePole) (l : Fin 12) :
    ((c.setOnePole r u).lines.get l).gain = (c.lines.get l).gain := by
  cases r <;> simp [Channel.setOnePole, Twelve.get_set] <;> grind
@[simp] theorem Channel.setOnePole_fb (r : OnePoleRef) (u : OnePole) (l : Fin 12) :
    ((c.setOnePole r u).lines.get l).fb = (c.lines.get l).fb := by
  cases r <;> simp [Channel.setOnePole, Twelve.get_set] <;> grind

@[simp] theorem Channel.setBiquad_regs (r : BiquadRef) (u : Biquad) : (c.setBiquad r u).regs = c.regs := by
  cases r <;> rfl
@[simp] theorem Channel.setBiquad_mt (r : BiquadRef) (u : Biquad) : (c.setBiquad r u).mt = c.mt := by
  cases r <;> rfl
@[simp] theorem Channel.setBiquad_chanField (r : BiquadRef) (u : Biquad) (f : ChanField) :
    (c.setBiquad r u).chanField f = c.chanField f := by
  cases r <;> cases f <;> rfl
@[simp] theorem Channel.setBiquad_gain (r : BiquadRef) (u : Biquad) (l : Fin 12) :
    ((c.setBiquad r u).lines.get l).gain = (c.lines.get l).gain := by
  cases r <;> simp [Channel.setBiquad, Twelve.get_set] <;> grind
@[simp] theorem Channel.setBiquad_fb (r : BiquadRef) (u : Biquad) (l : Fin 12) :
    ((c.setBiquad r u).lines.get l).fb = (c.lines.get l).fb := by
  cases r <;> simp [Channel.setBiquad, Twelve.get_set] <;> grind

@[simp] theorem Channel.setMdly_regs (r : MdlyRef) (u : Tap) : (c.setMdly r u).regs = c.regs := by
  cases r <;> rfl
@[simp] theorem Channel.setMdly_mt (r : MdlyRef) (u : Tap) : (c.setMdly r u).mt = c.mt := by
  cases r <;> rfl
@[simp] theorem Channel.setMdly_chanField (r : MdlyRef) (u : Tap) (f : ChanField) :
    (c.setMdly r u).chanField f = c.chanField f := by
  cases r <;> cases f <;> rfl
@[simp] theorem Channel.setMdly_gain (r : MdlyRef) (u : Tap) (l : Fin 12) :
    ((c.setMdly r u).lines.get l).gain = (c.lines.get l).gain := by
  cases r <;> simp [Channel.setMdly, Twelve.get_set] <;> grind
@[simp] theorem Channel.setMdly_fb (r : MdlyRef) (u : Tap) (l : Fin 12) :
    ((c.setMdly r u).lines.get l).fb = (c.lines.get l).fb := by
  cases r <;> simp [Channel.setMdly, Twelve.get_set] <;> grind

@[simp] theorem Channel.setDiff_regs (r : DiffRef) (u : Diff) : (c.setDiff r u).regs = c.regs := by
  cases r <;> rfl
@[simp] theorem Channel.setDiff_mt (r : DiffRef) (u : Diff) : (c.setDiff r u).mt = c.mt := by
  cases r <;> rfl
@[simp] theorem Channel.setDiff_chanField (r : DiffRef) (u : Diff) (f : ChanField) :
    (c.setDiff r u).chanField f = c.chanField f := by
  cases r <;> cases f <;> rfl
@[simp] theorem Channel.setDiff_gain (r : DiffRef) (u : Diff) (l : Fin 12) :
    ((c.setDiff r u).lines.get l).gain = (c.lines.get l).gain := by
  cases r <;> simp [Channel.setDiff, Twelve.get_set] <;> grind
@[simp] theorem Channel.setDiff_fb (r : DiffRef) (u : Diff) (l : Fin 12) :
    ((c.setDiff r u).lines.get l).fb = (c.lines.get l).fb := by
  cases r <;> simp [Channel.setDiff, Twelve.get_set] <;> grind

end

end Sys2Proof.Machine
end

