-- ==== Sys2Proof/Laws/Taps.lean ====
section
/-!
SUPPORT. What the operations of taps, all-pass stages, diffusers, the multi-tap and the feedback FIFO keep: ranges,
canonical buffers, block lengths.
-/

namespace Sys2Proof.Machine

/-! ### Taps -/

/-- The total delay of a tap lies between 1 and n - 2, whatever the tap holds (42_allpass_delay.md R301). -/
theorem Tap.totalDelay_bounds {n : Nat} (t : Tap) (hn : (F32.ofNat (n - 2)).isNaN = false)
    (hv : (F32.ofNat (n - 2)).val = ((n - 2 : Nat) : Int) * 2 ^ 149) (h1 : 1 ≤ n - 2) :
    (1 : Int) * 2 ^ 149 ≤ (t.totalDelay n).val ∧ (t.totalDelay n).val ≤ ((n - 2 : Nat) : Int) * 2 ^ 149 := by
  have hone : F32.one.val = 1 * 2 ^ 149 := by decide +kernel
  have hle : (1 : Int) * 2 ^ 149 ≤ ((n - 2 : Nat) : Int) * 2 ^ 149 :=
    mul_le_mul_of_nonneg_right (by exact_mod_cast h1) (pow_nonneg (by decide) 149)
  have h := F32.clamp_bounds (v := F32.add (F32.ofNat t.sd) (F32.mul (F32.min t.amt (F32.ofInt ((t.sd : Int) - 1))) t.mod))
    (lo := F32.one) (hi := F32.ofNat (n - 2)) (by decide +kernel) hn (by rw [hone, hv]; exact hle)
  rw [hone, hv] at h
  exact h.2

/-- Both taps of a refreshed tap lie inside the buffer (42_allpass_delay.md R301). -/
theorem Tap.refresh_taps {n : Nat} (t : Tap) (hn : (F32.ofNat (n - 2)).isNaN = false)
    (hv : (F32.ofNat (n - 2)).val = ((n - 2 : Nat) : Int) * 2 ^ 149) (h1 : 1 ≤ n - 2) (hb : n - 2 < 2 ^ 128) :
    1 ≤ (t.refresh n).da ∧ (t.refresh n).da ≤ n - 2 ∧ (t.refresh n).db = (t.refresh n).da + 1 := by
  have ⟨hl, hh⟩ := t.totalDelay_bounds hn hv h1
  have hf := F32.floor_between (x := t.totalDelay n) (lo := 1) (hi := n - 2) (by simpa using hl) hh hb
  have hd : (t.refresh n).da = (t.totalDelay n).floor.toNat := rfl
  have hdb : (t.refresh n).db = (t.totalDelay n).floor.toNat + 1 := rfl
  clear hl hh hv hb hn
  omega

/-- The buffer lengths of CSC-1. -/
def tapLength (n : Nat) : Prop := n = Config.nAp ∨ n = Config.nMd

/-- 19200.0 and 191998.0 are exact. -/
theorem tapLength_exact :
    ((F32.ofNat 19200).isNaN = false ∧ (F32.ofNat 19200).val = ((19200 : Nat) : Int) * 2 ^ 149) ∧
      (F32.ofNat 191998).isNaN = false ∧ (F32.ofNat 191998).val = ((191998 : Nat) : Int) * 2 ^ 149 := by
  decide +kernel

theorem tapLength_facts {n : Nat} (h : tapLength n) :
    (F32.ofNat (n - 2)).isNaN = false ∧ (F32.ofNat (n - 2)).val = ((n - 2 : Nat) : Int) * 2 ^ 149 ∧ 1 ≤ n - 2 ∧
      n - 2 < 2 ^ 128 ∧ 0 < n := by
  have h' : n - 2 = 19200 ∨ n - 2 = 191998 := by
    simp only [tapLength, Config.nAp, Config.nMd] at h
    omega
  have hp : 0 < n := by omega
  rcases h' with h' | h'
  · rw [h']
    exact ⟨tapLength_exact.1.1, tapLength_exact.1.2, by norm_num, by norm_num, hp⟩
  · rw [h']
    exact ⟨tapLength_exact.2.1, tapLength_exact.2.2, by norm_num, by norm_num, hp⟩

/-- The conditions of Tap.inRange one by one. -/
theorem Tap.inRange_iff {n : Nat} {t : Tap} : t.inRange n = true ↔
    t.widx < n ∧ 1 ≤ t.sd ∧ t.sd ≤ n - 2 ∧ t.counter ≤ 8 ∧ 1 ≤ t.da ∧ t.da ≤ n - 2 ∧ t.db = t.da + 1 := by
  simp only [Tap.inRange, Bool.and_eq_true, decide_eq_true_eq, and_assoc]

/-- refresh changes the two taps and their weights only. The lemmas below go through it: the kernel must not compare a
refreshed tap with the tap itself field by field, which would evaluate the delays. -/
theorem Tap.refresh_shape (n : Nat) (t : Tap) :
    ∃ (da db : Nat) (ga gb : F32), t.refresh n = { t with da := da, db := db, ga := ga, gb := gb } :=
  ⟨_, _, _, _, rfl⟩

/-- DA is the floor of the total delay. -/
theorem Tap.refresh_da (n : Nat) (t : Tap) : (t.refresh n).da = (t.totalDelay n).floor.toNat := by simp only [Tap.refresh]

/-- DB is the cell after DA. -/
theorem Tap.refresh_db (n : Nat) (t : Tap) : (t.refresh n).db = (t.refresh n).da + 1 := by simp only [Tap.refresh]

/-- GB is the fraction of the total delay. -/
theorem Tap.refresh_gb (n : Nat) (t : Tap) :
    (t.refresh n).gb = F32.sub (t.totalDelay n) (F32.ofNat (t.refresh n).da) := by simp only [Tap.refresh]

/-- GA is 1 - GB. -/
theorem Tap.refresh_ga (n : Nat) (t : Tap) : (t.refresh n).ga = F32.sub F32.one (t.refresh n).gb := by
  simp only [Tap.refresh]

@[simp] theorem Tap.refresh_widx (n : Nat) (t : Tap) : (t.refresh n).widx = t.widx := by
  have ⟨_, _, _, _, h⟩ := t.refresh_shape n
  rw [h]

@[simp] theorem Tap.refresh_sd (n : Nat) (t : Tap) : (t.refresh n).sd = t.sd := by
  have ⟨_, _, _, _, h⟩ := t.refresh_shape n
  rw [h]

@[simp] theorem Tap.refresh_amt (n : Nat) (t : Tap) : (t.refresh n).amt = t.amt := by
  have ⟨_, _, _, _, h⟩ := t.refresh_shape n
  rw [h]

@[simp] theorem Tap.refresh_rate (n : Nat) (t : Tap) : (t.refresh n).rate = t.rate := by
  have ⟨_, _, _, _, h⟩ := t.refresh_shape n
  rw [h]

@[simp] theorem Tap.refresh_phase (n : Nat) (t : Tap) : (t.refresh n).phase = t.phase := by
  have ⟨_, _, _, _, h⟩ := t.refresh_shape n
  rw [h]

@[simp] theorem Tap.refresh_mod (n : Nat) (t : Tap) : (t.refresh n).mod = t.mod := by
  have ⟨_, _, _, _, h⟩ := t.refresh_shape n
  rw [h]

@[simp] theorem Tap.refresh_pointers (n : Nat) (t : Tap) : (t.refresh n).pointers = t.pointers := by
  have ⟨_, _, _, _, h⟩ := t.refresh_shape n
  rw [h]
  rfl

@[simp] theorem Tap.refresh_counter (n : Nat) (t : Tap) : (t.refresh n).counter = t.counter := by
  have ⟨_, _, _, _, h⟩ := t.refresh_shape n
  rw [h]

@[simp] theorem Tap.refresh_buf (n : Nat) (t : Tap) : (t.refresh n).buf = t.buf := by
  have ⟨_, _, _, _, h⟩ := t.refresh_shape n
  rw [h]

/-- refresh keeps the ranges of a tap whose SD, write index and counter are in theirs. -/
theorem Tap.refresh_inRange {n : Nat} {t : Tap} (hn : tapLength n) (hw : t.widx < n) (h1 : 1 ≤ t.sd) (h2 : t.sd ≤ n - 2)
    (hc : t.counter ≤ 8) : (t.refresh n).inRange n = true := by
  have ⟨a, b, c, d, _⟩ := tapLength_facts hn
  have ⟨x, y, z⟩ := t.refresh_taps a b c d
  rw [Tap.inRange_iff, Tap.refresh_widx, Tap.refresh_sd, Tap.refresh_counter]
  exact ⟨hw, h1, h2, hc, x, y, z⟩

/-- The LFO part of a modulated read keeps the ranges and the buffer. -/
theorem Tap.advance_inRange (T : Transc) {n : Nat} {t : Tap} (hn : tapLength n) (h : t.inRange n = true) :
    (t.advance T n).inRange n = true ∧ (t.advance T n).buf = t.buf := by
  have hh := Tap.inRange_iff.1 h
  unfold Tap.advance
  split
  · have hu : (t.update T n).inRange n = true :=
      Tap.refresh_inRange (t := { t with phase := t.nextPhase, mod := T.sin32 (F32.mul F32.twoPi t.nextPhase) })
        hn hh.1 hh.2.1 hh.2.2.1 hh.2.2.2.1
    have hu' := Tap.inRange_iff.1 hu
    exact ⟨Tap.inRange_iff.2 ⟨hu'.1, hu'.2.1, hu'.2.2.1, by simp, hu'.2.2.2.2⟩, rfl⟩
  · rename_i hc
    have : t.counter < 8 := by simpa [Config.lfoInterval] using hc
    exact ⟨Tap.inRange_iff.2 ⟨hh.1, hh.2.1, hh.2.2.1, by simp only; omega, hh.2.2.2.2⟩, rfl⟩

@[simp] theorem Tap.advance_widx (T : Transc) (n : Nat) (t : Tap) : (t.advance T n).widx = t.widx := by
  unfold Tap.advance
  split <;> rfl

/-- Between updates a modulated read only counts (42_allpass_delay.md R304). -/
theorem Tap.advance_of_lt (T : Transc) (n : Nat) {t : Tap} (h : t.counter < 8) :
    t.advance T n = { t with counter := t.counter + 1 } := by
  have hc : ¬ Config.lfoInterval ≤ t.counter := by simpa [Config.lfoInterval] using h
  unfold Tap.advance
  rw [if_neg hc]

/-- At an update it updates the LFO and counts from 0 (42_allpass_delay.md R304). -/
theorem Tap.advance_of_ge (T : Transc) (n : Nat) {t : Tap} (h : 8 ≤ t.counter) :
    t.advance T n = { t.update T n with counter := 1 } := by
  have hc : Config.lfoInterval ≤ t.counter := by simpa [Config.lfoInterval] using h
  unfold Tap.advance
  rw [if_pos hc]

/-- A delay of at most a buffer's length, back from a write index. -/
theorem wrapBack_eq {n w d : Nat} (h : d ≤ n) : wrapBack n w d = (w + n - d) % n := by
  have e : ((w : Int) - d) % n = ((w + n - d : Nat) : Int) % n := by
    rw [show ((w + n - d : Nat) : Int) = (w - d) + n by omega]
    simp
  unfold wrapBack
  rw [e]
  omega

/-- Writing a sample keeps the ranges and the canonical buffer. -/
theorem Tap.push_sound {n : Nat} {t : Tap} {x : F32} (hn : 0 < n) (h : t.inRange n = true) (hb : t.buf.wf = true) :
    (t.push n x).inRange n = true ∧ (t.push n x).buf.wf = true := by
  have hh := Tap.inRange_iff.1 h
  exact ⟨Tap.inRange_iff.2 ⟨Nat.mod_lt _ hn, hh.2⟩, (Buf.set_wf hb).1⟩

/-- A step of a plain delay. -/
theorem Tap.step_sound (T : Transc) (i : Bool) {t : Tap} {x : F32} (h : t.inRange Config.nMd = true)
    (hb : t.buf.wf = true) :
    (t.step T i x).1.inRange Config.nMd = true ∧ (t.step T i x).1.buf.wf = true := by
  have ⟨ha, hb'⟩ := t.advance_inRange T (n := Config.nMd) (.inr rfl) h
  exact Tap.push_sound (by decide) ha (by rw [hb']; exact hb)

/-! ### All-pass stages and diffusers -/

/-- A step of an all-pass stage. -/
theorem Apf.step_sound (T : Transc) (i : Bool) {u : Apf} {x : F32} (h : u.tap.inRange Config.nAp = true)
    (hb : u.tap.buf.wf = true) :
    (u.step T i x).1.tap.inRange Config.nAp = true ∧ (u.step T i x).1.tap.buf.wf = true := by
  have key : (u.delayed T i).1.inRange Config.nAp = true ∧ (u.delayed T i).1.buf.wf = true := by
    unfold Apf.delayed
    cases u.modEn
    · exact ⟨h, hb⟩
    · have ⟨ha, hb'⟩ := u.tap.advance_inRange T (n := Config.nAp) (.inl rfl) h
      exact ⟨ha, (congrArg Buf.wf hb').trans hb⟩
  exact Tap.push_sound (by decide) key.1 key.2

/-- The unit invariants of an all-pass stage. -/
def Apf.sound (u : Apf) : Bool := u.tap.inRange Config.nAp && u.tap.buf.wf

/-- The unit invariants of a diffuser. -/
def Diff.sound (d : Diff) : Prop := ∀ k, (d.stages.get k).sound = true

theorem Diff.sound_iff {d : Diff} : d.sound ↔ d.inRange = true ∧ d.buffersWf = true := by
  simp only [Diff.sound, Diff.inRange, Diff.buffersWf, Twelve.all_iff, Apf.sound, Bool.and_eq_true]
  exact forall_and

theorem Apf.step_keeps (T : Transc) (i : Bool) {u : Apf} {x : F32} (h : u.sound = true) :
    (u.step T i x).1.sound = true := by
  simp only [Apf.sound, Bool.and_eq_true] at h ⊢
  exact u.step_sound T i h.1 h.2

/-- A chain of stages keeps the invariants of every stage. -/
theorem Diff.chain_sound (T : Transc) (i : Bool) (ks : List (Fin 12)) (st : Twelve Apf) (x : F32)
    (h : ∀ k, (st.get k).sound = true) : ∀ k, ((Diff.chain T i ks st x).1.get k).sound = true := by
  induction ks generalizing st x with
  | nil => exact h
  | cons j js ih =>
    refine ih _ _ (fun k => ?_)
    rw [Twelve.get_set]
    split
    · exact Apf.step_keeps T i (h j)
    · exact h k

/-- A chain of stages does not touch a stage outside its list. -/
theorem Diff.chain_get (T : Transc) (i : Bool) (ks : List (Fin 12)) (st : Twelve Apf) (x : F32) {k : Fin 12}
    (h : k ∉ ks) : (Diff.chain T i ks st x).1.get k = st.get k := by
  induction ks generalizing st x with
  | nil => rfl
  | cons j js ih =>
    rw [List.mem_cons, not_or] at h
    exact (ih _ _ h.2).trans (Twelve.get_set_ne h.1 _ _)

/-- The listed stages run in series: each takes its step on the output of the one before (42_allpass_delay.md R312). -/
theorem Diff.chain_series (T : Transc) (i : Bool) {ks : List (Fin 12)} (hk : ks.Nodup) (st : Twelve Apf) (x : F32) :
    ∃ y : Nat → F32, y 0 = x ∧
      (∀ (j : Nat) (k : Fin 12), ks[j]? = some k →
        (st.get k).step T i (y j) = ((Diff.chain T i ks st x).1.get k, y (j + 1))) ∧
      (Diff.chain T i ks st x).2 = y ks.length := by
  induction ks generalizing st x with
  | nil => exact ⟨fun _ => x, rfl, by simp, rfl⟩
  | cons a ks ih =>
    rw [List.nodup_cons] at hk
    obtain ⟨y, h0, h1, h2⟩ := ih hk.2 (st.set a ((st.get a).step T i x).1) ((st.get a).step T i x).2
    refine ⟨fun n => match n with
      | 0 => x
      | n + 1 => y n, rfl, fun j k hj => ?_, h2⟩
    cases j with
    | zero =>
      simp only [List.getElem?_cons_zero, Option.some.injEq] at hj
      subst hj
      simp only [Diff.chain]
      rw [Diff.chain_get _ _ _ _ _ hk.1, h0]
      simp
    | succ j =>
      have hne : k ≠ a := fun h => hk.1 (h ▸ List.mem_of_getElem? hj)
      have := h1 j k hj
      rwa [Twelve.get_set_ne hne] at this

/-- A step of a diffuser. -/
theorem Diff.step_sound (T : Transc) (i : Bool) {d : Diff} {x : F32} (h : d.sound) : (d.step T i x).1.sound :=
  Diff.chain_sound T i _ _ _ h

/-! ### Blocks -/

/-- A block gives as many outputs as inputs. -/
@[simp] theorem runBlock_length {σ : Type} (step : σ → F32 → σ × F32) (s : σ) (x : List F32) :
    (runBlock step s x).2.length = x.length := by
  induction x generalizing s with
  | nil => rfl
  | cons a x ih => simp [runBlock, ih]

/-- What every step keeps, a block keeps. -/
theorem runBlock_keeps {σ : Type} {step : σ → F32 → σ × F32} {P : σ → Prop} (h : ∀ s x, P s → P (step s x).1) {s : σ}
    (hs : P s) (x : List F32) : P (runBlock step s x).1 := by
  induction x generalizing s with
  | nil => exact hs
  | cons a x ih => exact ih (h s a hs)

@[simp] theorem runIf_length {σ : Type} (en : Bool) (step : σ → F32 → σ × F32) (s : σ) (x : List F32) :
    (runIf en step s x).2.length = x.length := by
  cases en <;> simp [runIf]

theorem runIf_keeps {σ : Type} {step : σ → F32 → σ × F32} {P : σ → Prop} (h : ∀ s x, P s → P (step s x).1) {s : σ}
    (hs : P s) (en : Bool) (x : List F32) : P (runIf en step s x).1 := by
  cases en
  · exact hs
  · exact runBlock_keeps h hs x

/-- A disabled unit stays frozen. -/
@[simp] theorem runIf_false {σ : Type} (step : σ → F32 → σ × F32) (s : σ) (x : List F32) :
    runIf false step s x = (s, x) := rfl

/-! ### The multi-tap -/

theorem Mt.step_sound {m : Mt} {x : F32} (hb : m.buf.wf = true) :
    (m.step x).1.buf.wf = true ∧ (m.step x).1.widx < Config.nMt :=
  ⟨(Buf.set_wf hb).1, Nat.mod_lt _ (by decide)⟩

/-- The sum of the taps, as a fold in ascending order (43_multitap.md R363). -/
theorem Mt.sumTaps_eq_foldl (m : Mt) (b : Buf) (js : List Nat) (y : F32) :
    Mt.sumTaps m b js y =
      js.foldl (fun y j => F32.add y (F32.mul (Buf.get b (wrapBack Config.nMt m.widx (m.idx.getD j 0))) (vecAt m.w j))) y := by
  induction js generalizing y with
  | nil => rfl
  | cons j js ih => exact ih _

/-! ### The feedback FIFO -/

/-- The unit invariants of a FIFO. -/
def Fifo.sound (f : Fifo) : Prop := f.rd < 2048 ∧ f.cells.wf = true

@[simp] theorem Fifo.pop_length (n : Nat) (f : Fifo) : (Fifo.pop n f).2.length = n := by
  induction n generalizing f with
  | zero => rfl
  | succ n ih => simp [Fifo.pop, ih]

@[simp] theorem Fifo.pop_level (n : Nat) (f : Fifo) : (Fifo.pop n f).1.level = f.level - n := by
  induction n generalizing f with
  | zero => rfl
  | succ n ih =>
    simp only [Fifo.pop, ih, Fifo.popOne]
    split
    · simp only; omega
    · simp only; omega

theorem Fifo.pop_sound (n : Nat) {f : Fifo} (h : f.sound) : (Fifo.pop n f).1.sound := by
  induction n generalizing f with
  | zero => exact h
  | succ n ih =>
    have hp : f.popOne.1.sound := by
      unfold Fifo.popOne
      split
      · exact ⟨Nat.mod_lt _ (by decide), h.2⟩
      · exact h
    exact ih hp

theorem Fifo.push_level (v : List F32) (f : Fifo) (h : f.level ≤ 2048) :
    (f.push v).level = min 2048 (f.level + v.length) := by
  induction v generalizing f with
  | nil => simp only [Fifo.push, List.foldl_nil, List.length_nil]; omega
  | cons x v ih =>
    have hcap : Config.fbCap = 2048 := rfl
    have h1 : (f.pushOne x).level = min 2048 (f.level + 1) := by
      unfold Fifo.pushOne
      split
      · simp only; omega
      · omega
    have := ih (f.pushOne x) (by omega)
    simp only [Fifo.push, List.foldl_cons, List.length_cons] at this ⊢
    rw [this]
    omega

theorem Fifo.push_sound (v : List F32) {f : Fifo} (h : f.sound) : (f.push v).sound := by
  induction v generalizing f with
  | nil => exact h
  | cons x v ih =>
    refine ih (f := f.pushOne x) ?_
    unfold Fifo.pushOne
    split
    · exact ⟨h.1, (Buf.set_wf h.2).1⟩
    · exact h

end Sys2Proof.Machine
end

