-- ==== Sys2Proof/Laws/Derive.lean ====
section
/-!
SUPPORT. What a derivation can do, said once (45_control.md R455): it keeps registers, buffers, FIFOs, pointers and filter
histories, and it keeps the ranges of the taps and the line gains below 1. Every derivation of a channel is one.
-/

namespace Sys2Proof.Machine

/-! ### The relation, unit by unit -/

/-- A tap after a derivation of it. -/
def Tap.Derived (n : Nat) (t u : Tap) : Prop :=
  u.buf = t.buf ∧ u.pointers = t.pointers ∧ (t.inRange n = true → u.inRange n = true)

/-- A diffuser after a derivation of it. -/
def Diff.Derived (d e : Diff) : Prop := ∀ k, Tap.Derived Config.nAp (d.stages.get k).tap (e.stages.get k).tap

/-- A biquad with the same history. -/
def Biquad.sameHistory (u v : Biquad) : Prop := v.x1 = u.x1 ∧ v.x2 = u.x2 ∧ v.y1 = u.y1 ∧ v.y2 = u.y2

/-- A line after a derivation of it. -/
structure Line.Derived (l m : Line) : Prop where
  fb : m.fb = l.fb
  mdly : Tap.Derived Config.nMd l.mdly m.mdly
  dif : Diff.Derived l.dif m.dif
  lsh : Biquad.sameHistory l.lsh m.lsh
  hsh : Biquad.sameHistory l.hsh m.hsh
  damp : m.damp.y = l.damp.y
  gain : F32.ge l.gain F32.one = false → F32.ge m.gain F32.one = false

/-- A channel after derivations of its units. -/
structure Channel.Derived (c d : Channel) : Prop where
  regs : d.regs = c.regs
  hpc : d.hpc.y = c.hpc.y
  lpc : d.lpc.y = c.lpc.y
  pre : Tap.Derived Config.nMd c.pre d.pre
  mtBuf : d.mt.buf = c.mt.buf
  mtWidx : d.mt.widx = c.mt.widx
  ed : Diff.Derived c.ed d.ed
  bqx : Biquad.sameHistory c.bqx d.bqx
  lines : ∀ l, Line.Derived (c.lines.get l) (d.lines.get l)

@[simp] theorem Tap.Derived.refl (n : Nat) (t : Tap) : Tap.Derived n t t := ⟨rfl, rfl, id⟩

theorem Tap.Derived.trans {n : Nat} {t u v : Tap} (h : Tap.Derived n t u) (g : Tap.Derived n u v) : Tap.Derived n t v :=
  ⟨g.1.trans h.1, g.2.1.trans h.2.1, fun x => g.2.2 (h.2.2 x)⟩

@[simp] theorem Diff.Derived.refl (d : Diff) : Diff.Derived d d := fun _ => Tap.Derived.refl _ _

theorem Diff.Derived.trans {d e f : Diff} (h : Diff.Derived d e) (g : Diff.Derived e f) : Diff.Derived d f :=
  fun k => (h k).trans (g k)

@[simp] theorem Biquad.sameHistory_refl (u : Biquad) : Biquad.sameHistory u u := ⟨rfl, rfl, rfl, rfl⟩

theorem Biquad.sameHistory.trans {u v w : Biquad} (h : Biquad.sameHistory u v) (g : Biquad.sameHistory v w) :
    Biquad.sameHistory u w :=
  ⟨g.1.trans h.1, g.2.1.trans h.2.1, g.2.2.1.trans h.2.2.1, g.2.2.2.trans h.2.2.2⟩

@[simp] theorem Line.Derived.refl (l : Line) : Line.Derived l l :=
  ⟨rfl, .refl _ _, .refl _, Biquad.sameHistory_refl _, Biquad.sameHistory_refl _, rfl, id⟩

theorem Line.Derived.trans {l m n : Line} (h : Line.Derived l m) (g : Line.Derived m n) : Line.Derived l n :=
  ⟨g.fb.trans h.fb, h.mdly.trans g.mdly, h.dif.trans g.dif, h.lsh.trans g.lsh, h.hsh.trans g.hsh,
    g.damp.trans h.damp, fun x => g.gain (h.gain x)⟩

theorem Channel.Derived.refl (c : Channel) : Channel.Derived c c :=
  ⟨rfl, rfl, rfl, .refl _ _, rfl, rfl, .refl _, Biquad.sameHistory_refl _, fun _ => .refl _⟩

theorem Channel.Derived.trans {c d e : Channel} (h : Channel.Derived c d) (g : Channel.Derived d e) :
    Channel.Derived c e :=
  ⟨g.regs.trans h.regs, g.hpc.trans h.hpc, g.lpc.trans h.lpc, h.pre.trans g.pre, g.mtBuf.trans h.mtBuf,
    g.mtWidx.trans h.mtWidx, h.ed.trans g.ed, h.bqx.trans g.bqx, fun l => (h.lines l).trans (g.lines l)⟩

/-! ### Taps and diffusers -/

/-- New parameters and a refresh are a derivation of the tap (42_allpass_delay.md R301). -/
theorem Tap.derived_refresh {n : Nat} (hn : tapLength n) (t : Tap) {sd : Nat} (amt rate : F32) (h1 : 1 ≤ sd)
    (h2 : sd ≤ n - 2) : Tap.Derived n t (Tap.refresh n { t with sd := sd, amt := amt, rate := rate }) := by
  refine ⟨by simp, by simp [Tap.pointers], fun h => ?_⟩
  have hh := Tap.inRange_iff.1 h
  exact Tap.refresh_inRange hn hh.1 h1 h2 hh.2.2.2.1

/-- A delay clamped to [1, n - 2] is in its range. -/
theorem clampi_delay (n : Nat) (v : Int) (h : 3 ≤ n) : 1 ≤ clampi v 1 (n - 2) ∧ clampi v 1 (n - 2) ≤ n - 2 :=
  clampi_bounds (by omega)

/-- Every stage of a derived diffuser has its feedback, whatever G it had (46_diagnostic.md R504). -/
theorem Diff.derive_stage_g (T : Transc) (fs a b r g : F32) (d : Diff) (k : Fin 12) :
    ((d.derive T fs a b r g).stages.get k).g = g := by
  simp only [Diff.derive, Twelve.get_mapIdx, Diff.deriveStage]

theorem Diff.derived_derive (T : Transc) (fs a b r g : F32) (d : Diff) : Diff.Derived d (d.derive T fs a b r g) := by
  intro k
  have h := clampi_delay Config.nAp (F32.mul (ms2s fs a) (F32.mul (T.exp10 (vecAt d.vec k)) F32.c01)).trunc (by decide)
  simp only [Diff.derive, Twelve.get_mapIdx, Diff.deriveStage]
  exact Tap.derived_refresh (.inl rfl) _ _ _ h.1 h.2

theorem Diff.derived_reseed (seed : Word) (cs : F32) (d : Diff) : Diff.Derived d (d.reseed seed cs) := .refl _

theorem Diff.derived_setCount (n : Nat) (d : Diff) : Diff.Derived d (d.setCount n) := fun _ => .refl _ _

theorem Diff.derived_setG (g : F32) (d : Diff) : Diff.Derived d (d.setG g) := by
  intro k
  simp only [Diff.setG, Twelve.get_map]
  exact .refl _ _

theorem Diff.derived_setModEn (m : Bool) (d : Diff) : Diff.Derived d (d.setModEn m) := by
  intro k
  simp only [Diff.setModEn, Twelve.get_map]
  exact .refl _ _

/-! ### Lines -/

/-- The line gain stays below 1 (44_fdn_channel.md R392, R402). -/
theorem lineGain_belowOne (T : Transc) (sd : Nat) (decS : F32) : F32.ge (lineGain T sd decS) F32.one = false := by
  unfold lineGain
  simp only
  split
  · decide +kernel
  · exact Bool.eq_false_iff.2 ‹_›

theorem Line.derived_dif {l : Line} {e : Diff} (h : Diff.Derived l.dif e) : Line.Derived l { l with dif := e } :=
  ⟨rfl, .refl _ _, h, Biquad.sameHistory_refl _, Biquad.sameHistory_refl _, rfl, id⟩

theorem Line.derived_update (T : Transc) (v : List F32) (nl na nr decS : F32) (i : Fin 12) (l : Line) :
    Line.Derived l (Line.update T v nl na nr decS i l) := by
  have h : 1 ≤ lineDelay nl (lineJitter na v (12 + i)) v i ∧ lineDelay nl (lineJitter na v (12 + i)) v i ≤ Config.nMd - 2 :=
    clampi_delay Config.nMd _ (by decide)
  exact ⟨rfl, Tap.derived_refresh (.inr rfl) _ _ _ h.1 h.2, .refl _, Biquad.sameHistory_refl _,
    Biquad.sameHistory_refl _, rfl, fun _ => lineGain_belowOne _ _ _⟩

theorem Biquad.derived (T : Transc) (fs : F32) (ty : BqType) (f g q : F32) (u : Biquad) :
    Biquad.sameHistory u (u.derive T fs ty f g q) := ⟨rfl, rfl, rfl, rfl⟩

theorem OnePole.derived (T : Transc) (fs fc : F32) (u : OnePole) : (u.derive T fs fc).y = u.y := rfl

/-! ### Channels -/

theorem Channel.derived_ed {c : Channel} {e : Diff} (h : Diff.Derived c.ed e) : Channel.Derived c { c with ed := e } :=
  ⟨rfl, rfl, rfl, .refl _ _, rfl, rfl, h, Biquad.sameHistory_refl _, fun _ => .refl _⟩

theorem Channel.derived_lines {c : Channel} {ls : Twelve Line} (h : ∀ l, Line.Derived (c.lines.get l) (ls.get l)) :
    Channel.Derived c { c with lines := ls } :=
  ⟨rfl, rfl, rfl, .refl _ _, rfl, rfl, .refl _, Biquad.sameHistory_refl _, h⟩

theorem Channel.derived_map {c : Channel} {f : Line → Line} (h : ∀ l, Line.Derived l (f l)) :
    Channel.Derived c (c.mapLines f) :=
  Channel.derived_lines (fun l => by rw [Twelve.get_map]; exact h _)

theorem Channel.derived_mapIdx {c : Channel} {f : Fin 12 → Line → Line} (h : ∀ i l, Line.Derived l (f i l)) :
    Channel.Derived c { c with lines := c.lines.mapIdx f } :=
  Channel.derived_lines (fun l => by rw [Twelve.get_mapIdx]; exact h _ _)

theorem Channel.derived_mt {c : Channel} {m : Mt} (h1 : m.buf = c.mt.buf) (h2 : m.widx = c.mt.widx) :
    Channel.Derived c { c with mt := m } :=
  ⟨rfl, rfl, rfl, .refl _ _, h1, h2, .refl _, Biquad.sameHistory_refl _, fun _ => .refl _⟩

theorem Channel.derived_cs (k : Chan) (c : Channel) : Channel.Derived c (c.deriveCs k) :=
  ⟨rfl, rfl, rfl, .refl _ _, rfl, rfl, .refl _, Biquad.sameHistory_refl _, fun _ => .refl _⟩

theorem Channel.derived_hpc (T : Transc) (fs : F32) (c : Channel) : Channel.Derived c (c.deriveHpc T fs) :=
  ⟨rfl, rfl, rfl, .refl _ _, rfl, rfl, .refl _, Biquad.sameHistory_refl _, fun _ => .refl _⟩

theorem Channel.derived_lpc (T : Transc) (fs : F32) (c : Channel) : Channel.Derived c (c.deriveLpc T fs) :=
  ⟨rfl, rfl, rfl, .refl _ _, rfl, rfl, .refl _, Biquad.sameHistory_refl _, fun _ => .refl _⟩

theorem Channel.derived_pre (fs : F32) (c : Channel) : Channel.Derived c (c.derivePre fs) := by
  have h := clampi_delay Config.nMd (ms2s fs c.regs.tapPredelayMs).trunc (by decide)
  exact ⟨rfl, rfl, rfl, Tap.derived_refresh (.inr rfl) _ _ _ h.1 h.2, rfl, rfl, .refl _, Biquad.sameHistory_refl _,
    fun _ => .refl _⟩

theorem Channel.derived_deriveMt (T : Transc) (fs : F32) (c : Channel) : Channel.Derived c (c.deriveMt T fs) :=
  Channel.derived_mt rfl rfl

theorem Channel.derived_reseedMt (T : Transc) (fs : F32) (c : Channel) : Channel.Derived c (c.reseedMt T fs) :=
  Channel.derived_mt rfl rfl

theorem Channel.derived_deriveEd (T : Transc) (fs : F32) (c : Channel) : Channel.Derived c (c.deriveEd T fs) :=
  Channel.derived_ed (Diff.derived_derive _ _ _ _ _ _ _)

theorem Channel.derived_reseedEd (T : Transc) (fs : F32) (c : Channel) : Channel.Derived c (c.reseedEd T fs) :=
  Channel.derived_ed ((Diff.derived_reseed _ _ _).trans (Diff.derived_derive _ _ _ _ _ _ _))

theorem Channel.derived_edCount (c : Channel) : Channel.Derived c c.deriveEdCount :=
  Channel.derived_ed (Diff.derived_setCount _ _)

theorem Channel.derived_edG (c : Channel) : Channel.Derived c c.deriveEdG := Channel.derived_ed (Diff.derived_setG _ _)

theorem Channel.derived_edMod (c : Channel) : Channel.Derived c c.deriveEdMod :=
  Channel.derived_ed (Diff.derived_setModEn _ _)

/-- A BQX derive changes BQX only, and derives it where BQX_TYPE names a response. -/
theorem Channel.deriveBqx_shape (T : Transc) (fs : F32) (c : Channel) :
    ∃ b, c.deriveBqx T fs = { c with bqx := b } ∧ ∀ type, BqType.ofWord c.regs.bqxType = some type →
      b = c.bqx.derive T fs type c.regs.bqxHz c.regs.bqxDb c.regs.bqxQ := by
  unfold Channel.deriveBqx
  split
  · rename_i type h
    exact ⟨_, rfl, fun _ g => by rw [h] at g; cases g; rfl⟩
  · rename_i h
    exact ⟨c.bqx, rfl, fun _ g => by rw [h] at g; cases g⟩

theorem Channel.derived_bqx (T : Transc) (fs : F32) (c : Channel) : Channel.Derived c (c.deriveBqx T fs) := by
  unfold Channel.deriveBqx
  split
  · exact ⟨rfl, rfl, rfl, .refl _ _, rfl, rfl, .refl _, Biquad.derived _ _ _ _ _ _ _, fun _ => .refl _⟩
  · exact .refl _

theorem Channel.derived_ldif (T : Transc) (fs : F32) (c : Channel) : Channel.Derived c (c.deriveLdif T fs) :=
  Channel.derived_map (fun _ => Line.derived_dif (Diff.derived_derive _ _ _ _ _ _ _))

theorem Channel.derived_reseedLdif (T : Transc) (fs : F32) (c : Channel) : Channel.Derived c (c.reseedLdif T fs) :=
  Channel.derived_mapIdx (fun _ _ =>
    Line.derived_dif ((Diff.derived_reseed _ _ _).trans (Diff.derived_derive _ _ _ _ _ _ _)))

theorem Channel.derived_ldifCount (c : Channel) : Channel.Derived c c.deriveLdifCount :=
  Channel.derived_map (fun _ => Line.derived_dif (Diff.derived_setCount _ _))

theorem Channel.derived_ldifG (c : Channel) : Channel.Derived c c.deriveLdifG :=
  Channel.derived_map (fun _ => Line.derived_dif (Diff.derived_setG _ _))

theorem Channel.derived_ldifMod (c : Channel) : Channel.Derived c c.deriveLdifMod :=
  Channel.derived_map (fun _ => Line.derived_dif (Diff.derived_setModEn _ _))

theorem Channel.derived_lsh (T : Transc) (fs : F32) (c : Channel) : Channel.Derived c (c.deriveLsh T fs) :=
  Channel.derived_map (fun _ =>
    ⟨rfl, .refl _ _, .refl _, Biquad.derived _ _ _ _ _ _ _, Biquad.sameHistory_refl _, rfl, id⟩)

theorem Channel.derived_hsh (T : Transc) (fs : F32) (c : Channel) : Channel.Derived c (c.deriveHsh T fs) :=
  Channel.derived_map (fun _ =>
    ⟨rfl, .refl _ _, .refl _, Biquad.sameHistory_refl _, Biquad.derived _ _ _ _ _ _ _, rfl, id⟩)

theorem Channel.derived_damp (T : Transc) (fs : F32) (c : Channel) : Channel.Derived c (c.deriveDamp T fs) :=
  Channel.derived_map (fun _ =>
    ⟨rfl, .refl _ _, .refl _, Biquad.sameHistory_refl _, Biquad.sameHistory_refl _, rfl, id⟩)

theorem Channel.derived_updateLines (T : Transc) (fs : F32) (c : Channel) : Channel.Derived c (c.updateLines T fs) :=
  ⟨rfl, rfl, rfl, .refl _ _, rfl, rfl, .refl _, Biquad.sameHistory_refl _, fun l => by
    simp only [Channel.updateLines, Twelve.get_mapIdx]
    exact Line.derived_update _ _ _ _ _ _ _ _⟩

theorem Channel.derived_reseedAll (T : Transc) (fs : F32) (k : Chan) (c : Channel) :
    Channel.Derived c (c.reseedAll T fs k) :=
  ((((Channel.derived_cs k c).trans (Channel.derived_reseedMt _ _ _)).trans (Channel.derived_reseedEd _ _ _)).trans
    (Channel.derived_reseedLdif _ _ _)).trans (Channel.derived_updateLines _ _ _)

/-- DERIVE_ALL is a derivation (45_control.md R455). -/
theorem Channel.derived_deriveAll (T : Transc) (fs : F32) (k : Chan) (c : Channel) :
    Channel.Derived c (c.deriveAll T fs k) :=
  ((((((((((((((((Channel.derived_cs k c).trans (Channel.derived_hpc _ _ _)).trans
    (Channel.derived_lpc _ _ _)).trans (Channel.derived_pre _ _)).trans (Channel.derived_reseedMt _ _ _)).trans
    (Channel.derived_reseedEd _ _ _)).trans (Channel.derived_edCount _)).trans (Channel.derived_edG _)).trans
    (Channel.derived_edMod _)).trans (Channel.derived_bqx _ _ _)).trans (Channel.derived_reseedLdif _ _ _)).trans
    (Channel.derived_ldifCount _)).trans (Channel.derived_ldifG _)).trans (Channel.derived_ldifMod _)).trans
    (Channel.derived_lsh _ _ _)).trans (Channel.derived_hsh _ _ _)).trans (Channel.derived_damp _ _ _) |>.trans
    (Channel.derived_updateLines _ _ _)

/-- DERIVE_ALL leaves the multi-tap reseeded and derived from the channel's registers, with the channel's new CS
(45_control.md R455). -/
theorem Channel.deriveAll_mt (T : Transc) (fs : F32) (k : Chan) (c : Channel) :
    (c.deriveAll T fs k).mt =
      (c.mt.reseed T c.regs.seedTap (c.deriveAll T fs k).cs).derive T fs c.regs.tapCount.toNat c.regs.tapLengthMs
        c.regs.tapDecay := by
  unfold Channel.deriveAll
  dsimp only
  generalize he : Channel.deriveEdMod _ = e
  obtain ⟨b, h, -⟩ := Channel.deriveBqx_shape T fs e
  rw [h]
  subst he
  rfl

@[simp] theorem Channel.clearAll_mt (c : Channel) : c.clearAll.mt = c.mt.clear := rfl
@[simp] theorem Channel.clearAll_cs (c : Channel) : c.clearAll.cs = c.cs := rfl

/-- DERIVE_ALL leaves the gains and positions that SEED_TAP and the channel's new CS generate, and a clear keeps them
(45_control.md R455, R459; 43_multitap.md R361). -/
theorem Channel.deriveAll_mt_vectors (T : Transc) (fs : F32) (k : Chan) (c d : Channel)
    (h : d = (c.deriveAll T fs k).clearAll) :
    d.mt.gain = (d.mt.reseed T c.regs.seedTap d.cs).gain ∧ d.mt.pos = (d.mt.reseed T c.regs.seedTap d.cs).pos := by
  rw [h, Channel.clearAll_mt, Channel.clearAll_cs, Channel.deriveAll_mt]
  exact ⟨rfl, rfl⟩

/-- Every write effect but an enable clear is a derivation (45_control.md R456). -/
theorem Channel.derived_writeEffect (T : Transc) (fs : F32) (k : Chan) (e : Effect) (b : Bool) (c : Channel)
    (h : ∀ t, e ≠ .enable t) : Channel.Derived c (Channel.writeEffect T fs k e b c) := by
  cases e with
  | none => exact .refl _
  | enable t => exact absurd rfl (h t)
  | hpc => exact Channel.derived_hpc _ _ _
  | lpc => exact Channel.derived_lpc _ _ _
  | bqx => exact Channel.derived_bqx _ _ _
  | pre => exact Channel.derived_pre _ _
  | mt => exact Channel.derived_deriveMt _ _ _
  | mtSeed => exact Channel.derived_reseedMt _ _ _
  | ed => exact Channel.derived_deriveEd _ _ _
  | edCount => exact Channel.derived_edCount _
  | edG => exact Channel.derived_edG _
  | edMod => exact Channel.derived_edMod _
  | edSeed => exact Channel.derived_reseedEd _ _ _
  | ldif => exact Channel.derived_ldif _ _ _
  | ldifCount => exact Channel.derived_ldifCount _
  | ldifG => exact Channel.derived_ldifG _
  | ldifMod => exact Channel.derived_ldifMod _
  | ldifSeed => exact Channel.derived_reseedLdif _ _ _
  | lsh => exact Channel.derived_lsh _ _ _
  | hsh => exact Channel.derived_hsh _ _ _
  | damp => exact Channel.derived_damp _ _ _
  | lines => exact Channel.derived_updateLines _ _ _
  | xseed => exact Channel.derived_reseedAll _ _ _ _

/-! ### What follows from it -/

/-- The unit invariants of a channel, field by field. -/
theorem Channel.sound_iff {c : Channel} : c.sound = true ↔
    c.pre.inRange Config.nMd = true ∧ c.pre.buf.wf = true ∧ c.mt.widx < Config.nMt ∧ c.mt.buf.wf = true ∧ c.ed.sound ∧
      ∀ l, F32.ge (c.lines.get l).gain F32.one = false ∧ (c.lines.get l).fb.sound ∧ (c.lines.get l).fb.level ≤ 1024 ∧
        (c.lines.get l).mdly.inRange Config.nMd = true ∧ (c.lines.get l).mdly.buf.wf = true ∧
        (c.lines.get l).dif.sound := by
  have hcap : Config.fbCap = 2048 := rfl
  simp only [Channel.sound, Channel.gainsBelowOne, Channel.inRange, Channel.fifosWithinBlock, Channel.buffersWf,
    Line.inRange, Twelve.all_iff, Bool.and_eq_true, decide_eq_true_eq, Bool.not_eq_true', Diff.sound_iff, Fifo.sound,
    hcap]
  constructor
  · rintro ⟨⟨⟨hg, ⟨⟨hp, hm⟩, he⟩, hl⟩, hf⟩, ⟨⟨hpb, hmb⟩, heb⟩, hlb⟩
    exact ⟨hp, hpb, hm, hmb, ⟨he, heb⟩, fun l => ⟨hg l, ⟨(hf l).1, (hlb l).1.1⟩, (hf l).2, (hl l).1.2, (hlb l).1.2,
      (hl l).2, (hlb l).2⟩⟩
  · rintro ⟨hp, hpb, hm, hmb, ⟨he, heb⟩, h⟩
    exact ⟨⟨⟨fun l => (h l).1, ⟨⟨hp, hm⟩, he⟩, fun l => ⟨⟨⟨(h l).2.1.1, by have := (h l).2.2.1; omega⟩, (h l).2.2.2.1⟩,
      (h l).2.2.2.2.2.1⟩⟩, fun l => ⟨(h l).2.1.1, (h l).2.2.1⟩⟩, ⟨⟨hpb, hmb⟩, heb⟩,
      fun l => ⟨⟨(h l).2.1.2, (h l).2.2.2.2.1⟩, (h l).2.2.2.2.2.2⟩⟩

theorem Tap.Derived.wf {n : Nat} {t u : Tap} (h : Tap.Derived n t u) (hw : t.buf.wf = true) : u.buf.wf = true := by
  rw [h.1]; exact hw

theorem Diff.Derived.sound {d e : Diff} (h : Diff.Derived d e) (hd : d.sound) : e.sound := by
  intro k
  have hk := hd k
  simp only [Apf.sound, Bool.and_eq_true] at hk ⊢
  exact ⟨(h k).2.2 hk.1, (h k).wf hk.2⟩

/-- A derivation keeps the unit invariants. -/
theorem Channel.Derived.sound {c d : Channel} (h : Channel.Derived c d) (hc : c.sound = true) : d.sound = true := by
  rw [Channel.sound_iff] at hc ⊢
  obtain ⟨h1, h2, h3, h4, h5, h6⟩ := hc
  refine ⟨h.pre.2.2 h1, h.pre.wf h2, by rw [h.mtWidx]; exact h3, by rw [h.mtBuf]; exact h4, h.ed.sound h5, fun l => ?_⟩
  obtain ⟨g1, g2, g3, g4, g5, g6⟩ := h6 l
  have hl := h.lines l
  exact ⟨hl.gain g1, by rw [hl.fb]; exact g2, by rw [hl.fb]; exact g3, hl.mdly.2.2 g4, hl.mdly.wf g5, hl.dif.sound g6⟩

theorem Diff.Derived.pointers {d e : Diff} (h : Diff.Derived d e) : e.pointers = d.pointers := by
  simp only [Diff.pointers]
  exact List.map_congr_left (fun k _ => (h k).2.1)

/-- A derivation moves no pointer. -/
theorem Channel.Derived.pointers {c d : Channel} (h : Channel.Derived c d) : d.pointers = c.pointers := by
  have hl : ∀ k, (d.lines.get k).pointers = (c.lines.get k).pointers := fun k => by
    have := h.lines k
    simp only [Line.pointers, this.fb, this.mdly.2.1, this.dif.pointers]
  simp only [Channel.pointers, h.pre.2.1, h.mtWidx, h.ed.pointers, hl]

/-- A derivation keeps every sample buffer. -/
theorem Channel.Derived.buffers {c d : Channel} (h : Channel.Derived c d) : d.buffers .chan = c.buffers .chan := by
  have he : ∀ k, (d.apf .ed k).tap.buf = (c.apf .ed k).tap.buf := fun k => (h.ed k).1
  have hd : ∀ l k, (d.apf (.line l) k).tap.buf = (c.apf (.line l) k).tap.buf := fun l k => ((h.lines l).dif k).1
  have hf : ∀ l, (d.lines.get l).fb = (c.lines.get l).fb := fun l => (h.lines l).fb
  have hm : ∀ l, (d.lines.get l).mdly.buf = (c.lines.get l).mdly.buf := fun l => (h.lines l).mdly.1
  simp only [Channel.buffers, h.pre.1, h.mtBuf, he, hd, hf, hm]

/-- A derivation keeps every filter history. -/
theorem Channel.Derived.history {c d : Channel} (h : Channel.Derived c d) {f : FieldRef} (hf : f.history = true) :
    d.readField f = c.readField f := by
  have hb : ∀ (u v : Biquad) (g : BiquadField), Biquad.sameHistory u v → (FieldRef.biquad .bqx g).history = true →
      v.field g = u.field g := by
    intro u v g hs hg
    obtain ⟨a, b, c, d⟩ := hs
    cases g <;> first | exact absurd hg (by decide) | simp only [Biquad.field, a, b, c, d]
  cases f with
  | onePole r g =>
    have hg : g = .y := by
      cases g
      case y => rfl
      all_goals exact absurd hf (by simp [FieldRef.history])
    subst hg
    cases r
    · simp only [Channel.readField, Channel.onePole, OnePole.field, h.hpc]
    · simp only [Channel.readField, Channel.onePole, OnePole.field, h.lpc]
    · rename_i l
      simp only [Channel.readField, Channel.onePole, OnePole.field, (h.lines l).damp]
  | biquad r g =>
    have hg : (FieldRef.biquad .bqx g).history = true := by rw [← hf]; cases g <;> rfl
    cases r
    · exact hb _ _ g h.bqx hg
    · rename_i l; exact hb _ _ g (h.lines l).lsh hg
    · rename_i l; exact hb _ _ g (h.lines l).hsh hg
  | apf _ _ _ => simp [FieldRef.history] at hf
  | mdly _ _ => simp [FieldRef.history] at hf
  | diff _ _ => simp [FieldRef.history] at hf
  | mt _ => simp [FieldRef.history] at hf
  | line _ _ => simp [FieldRef.history] at hf
  | chan _ => simp [FieldRef.history] at hf

/-! ### Clearing -/

theorem Diff.clear_sound {d : Diff} (h : d.sound) : d.clear.sound := by
  intro k
  have hk := h k
  simp only [Apf.sound, Bool.and_eq_true, Diff.clear, Twelve.get_map] at hk ⊢
  exact ⟨hk.1, rfl⟩

theorem Line.clear_sound {c : Channel} (h : c.sound = true) (l : Fin 12) :
    F32.ge (c.lines.get l).clear.gain F32.one = false ∧ (c.lines.get l).clear.fb.sound ∧
      (c.lines.get l).clear.fb.level ≤ 1024 ∧ (c.lines.get l).clear.mdly.inRange Config.nMd = true ∧
      (c.lines.get l).clear.mdly.buf.wf = true ∧ (c.lines.get l).clear.dif.sound := by
  obtain ⟨g1, g2, g3, g4, _, g6⟩ := (Channel.sound_iff.1 h).2.2.2.2.2 l
  exact ⟨g1, ⟨g2.1, rfl⟩, g3, g4, rfl, Diff.clear_sound g6⟩

/-- CLEAR_ALL keeps the unit invariants. -/
theorem Channel.clearAll_sound {c : Channel} (h : c.sound = true) : c.clearAll.sound = true := by
  have hl := Line.clear_sound h
  rw [Channel.sound_iff] at h ⊢
  obtain ⟨h1, _, h3, _, h5, _⟩ := h
  refine ⟨h1, rfl, h3, rfl, Diff.clear_sound h5, fun l => ?_⟩
  simp only [Channel.clearAll, Twelve.get_map]
  exact hl l

/-- The state after reset meets the unit invariants, whatever the transcendental functions are. -/
theorem Channel.reset_sound (T : Transc) (k : Chan) : (Channel.reset T k).sound = true :=
  Channel.clearAll_sound ((Channel.derived_deriveAll _ _ _ _).sound (by decide +kernel))

end Sys2Proof.Machine
end

