-- ==== Sys2Proof/Laws/Blocks.lean ====
section
/-!
SUPPORT. What running a block does: lengths, what stays frozen, and the unit invariants (44_fdn_channel.md R391, R395,
R398).
-/

namespace Sys2Proof.Machine

/-! ### Lengths -/

@[simp] theorem feedbackMix_length (g : F32) (e fb : List F32) :
    (feedbackMix g e fb).length = min e.length fb.length := by simp [feedbackMix]

theorem Line.block_length (T : Transc) (i : Bool) (r : ChanRegs) (l : Line) (e : List F32) :
    (l.block T i r e).2.length = e.length := by
  unfold Line.block
  simp only
  split <;> simp

theorem sumLines_cons (T : Transc) (i : Bool) (r : ChanRegs) (e : List F32) (j : Fin 12) (js : List (Fin 12))
    (ls : Twelve Line) (s : List F32) :
    sumLines T i r e (j :: js) ls s =
      sumLines T i r e js (ls.set j ((ls.get j).block T i r e).1)
        (List.zipWith F32.add s ((ls.get j).block T i r e).2) := rfl

theorem sumLines_length (T : Transc) (i : Bool) (r : ChanRegs) (e : List F32) (ks : List (Fin 12)) (ls : Twelve Line)
    (s : List F32) (h : s.length = e.length) : (sumLines T i r e ks ls s).2.length = e.length := by
  induction ks generalizing ls s with
  | nil => exact h
  | cons j js ih =>
    rw [sumLines_cons]
    refine ih _ _ ?_
    rw [List.length_zipWith, Line.block_length, h, Nat.min_self]

theorem mixBlock_length (r : ChanRegs) (norm : F32) (u e s : List F32) (h1 : e.length = u.length)
    (h2 : s.length = u.length) : (mixBlock r norm u e s).length = u.length := by
  induction u generalizing e s with
  | nil => cases e <;> cases s <;> simp [mixBlock]
  | cons x u ih =>
    cases e with
    | nil => simp at h1
    | cons y e =>
      cases s with
      | nil => simp at h2
      | cons z s =>
        simp only [mixBlock, List.length_cons, Nat.add_right_cancel_iff] at h1 h2 ⊢
        exact ih e s h1 h2

/-- A channel block gives as many outputs as inputs. -/
theorem Channel.block_length (T : Transc) (i : Bool) (c : Channel) (u : List F32) :
    (c.block T i u).2.length = u.length := by
  unfold Channel.block
  simp only
  refine mixBlock_length _ _ _ _ _ (by simp) ?_
  rw [sumLines_length]
  · simp
  · simp

/-! ### Frozen lines -/

/-- A line outside the list does not run. -/
theorem sumLines_get (T : Transc) (i : Bool) (r : ChanRegs) (e : List F32) (ks : List (Fin 12)) (ls : Twelve Line)
    (s : List F32) {k : Fin 12} (h : k ∉ ks) : (sumLines T i r e ks ls s).1.get k = ls.get k := by
  induction ks generalizing ls s with
  | nil => rfl
  | cons j js ih =>
    rw [List.mem_cons, not_or] at h
    rw [sumLines_cons]
    exact (ih _ _ h.2).trans (Twelve.get_set_ne h.1 _ _)

/-- A listed line runs its block. -/
theorem sumLines_get_of_mem (T : Transc) (i : Bool) (r : ChanRegs) (e : List F32) {ks : List (Fin 12)} (hk : ks.Nodup)
    (ls : Twelve Line) (s : List F32) {l : Fin 12} (hl : l ∈ ks) :
    (sumLines T i r e ks ls s).1.get l = ((ls.get l).block T i r e).1 := by
  induction ks generalizing ls s with
  | nil => simp at hl
  | cons k ks ih =>
    rw [List.nodup_cons] at hk
    rw [sumLines_cons]
    rcases List.mem_cons.1 hl with rfl | h
    · rw [sumLines_get _ _ _ _ _ _ _ hk.1, Twelve.get_set_self]
    · rw [ih hk.2 _ _ h, Twelve.get_set_ne (fun h' : l = k => hk.1 (h' ▸ h))]

/-- Each sample of the sum: the lines' outputs added in the order of the list (44_fdn_channel.md R395). -/
theorem sumLines_getElem? (T : Transc) (i : Bool) (r : ChanRegs) (e : List F32) {ks : List (Fin 12)} (hk : ks.Nodup)
    (ls : Twelve Line) {s : List F32} (hs : s.length = e.length) {j : Nat} {b : F32} (hb : s[j]? = some b) :
    (sumLines T i r e ks ls s).2[j]? =
      some (ks.foldl (fun a l => F32.add a (((ls.get l).block T i r e).2.getD j ⟨0x00000000⟩)) b) := by
  induction ks generalizing ls s b with
  | nil => exact hb
  | cons k ks ih =>
    rw [List.nodup_cons] at hk
    rw [sumLines_cons]
    have hl : j < s.length := (List.getElem?_eq_some_iff.1 hb).1
    have hy : ((ls.get k).block T i r e).2.length = e.length := Line.block_length _ _ _ _ _
    have hz : (List.zipWith F32.add s ((ls.get k).block T i r e).2)[j]? =
        some (F32.add b (((ls.get k).block T i r e).2.getD j ⟨0x00000000⟩)) := by
      rw [List.getElem?_zipWith, hb, List.getD_eq_getElem?_getD, List.getElem?_eq_getElem (by omega)]
      rfl
    rw [ih hk.2 _ (by simp; omega) hz, List.foldl_cons]
    congr 1
    apply List.foldl_ext
    intro a l hl'
    rw [Twelve.get_set_ne (fun h : l = k => hk.1 (h ▸ hl'))]

/-- Each sample of the output mix (44_fdn_channel.md R395). -/
theorem mixBlock_getElem? (r : ChanRegs) (norm : F32) {u e s : List F32} {j : Nat} {a b c : F32} (h1 : u[j]? = some a)
    (h2 : e[j]? = some b) (h3 : s[j]? = some c) : (mixBlock r norm u e s)[j]? = some (mixOut r norm a b c) := by
  induction u generalizing e s j with
  | nil => simp at h1
  | cons x u ih =>
    cases e with
    | nil => simp at h2
    | cons y e =>
      cases s with
      | nil => simp at h3
      | cons z s =>
        cases j with
        | zero => simp_all [mixBlock]
        | succ j =>
          simp only [mixBlock, List.getElem?_cons_succ] at *
          exact ih h1 h2 h3

/-- What every line's block keeps, the sum of the lines keeps. -/
theorem sumLines_keeps (T : Transc) (i : Bool) (r : ChanRegs) (e : List F32) {P : Line → Prop}
    (hP : ∀ l, P l → P (l.block T i r e).1) (ks : List (Fin 12)) (ls : Twelve Line) (s : List F32)
    (h : ∀ k, P (ls.get k)) : ∀ k, P ((sumLines T i r e ks ls s).1.get k) := by
  induction ks generalizing ls s with
  | nil => exact h
  | cons j js ih =>
    rw [sumLines_cons]
    refine ih _ _ (fun k => ?_)
    rw [Twelve.get_set]
    split
    · exact hP _ (h j)
    · exact h k

/-! ### The unit invariants -/

/-- The unit invariants of a line. -/
def Line.sound (l : Line) : Prop :=
  F32.ge l.gain F32.one = false ∧ l.fb.sound ∧ l.fb.level ≤ 1024 ∧ l.mdly.inRange Config.nMd = true ∧
    l.mdly.buf.wf = true ∧ l.dif.sound

/-- A line block leaves LEVEL at the larger of what it was and the block length (44_fdn_channel.md R398). -/
theorem Line.block_level (T : Transc) (i : Bool) (r : ChanRegs) (l : Line) (e : List F32) (h1 : l.fb.level ≤ 1024)
    (h2 : e.length ≤ 1024) : (l.block T i r e).1.fb.level = max l.fb.level e.length := by
  unfold Line.block
  simp only
  rw [Fifo.push_level _ _ (by rw [Fifo.pop_level]; omega), Fifo.pop_level]
  simp only [runIf_length, runBlock_length, feedbackMix_length, Fifo.pop_length]
  omega

theorem Line.block_sound (T : Transc) (i : Bool) (r : ChanRegs) (l : Line) (e : List F32) (h : l.sound)
    (h2 : e.length ≤ 1024) : (l.block T i r e).1.sound := by
  obtain ⟨g1, g2, g3, g4, g5, g6⟩ := h
  have hm := runBlock_keeps (step := Tap.step T i) (P := fun t : Tap => t.inRange Config.nMd = true ∧ t.buf.wf = true)
    (fun s x hs => Tap.step_sound T i hs.1 hs.2) (s := l.mdly) ⟨g4, g5⟩ (feedbackMix l.gain e (l.fb.pop e.length).2)
  have hd := runIf_keeps (step := Diff.step T i) (P := Diff.sound) (fun s x hs => Diff.step_sound T i hs) g6 r.lateDifEn
    (runBlock (Tap.step T i) l.mdly (feedbackMix l.gain e (l.fb.pop e.length).2)).2
  refine ⟨g1, Fifo.push_sound _ (Fifo.pop_sound _ g2), ?_, hm.1, hm.2, hd⟩
  rw [Line.block_level T i r l e g3 h2]
  omega

/-- A channel block of at most 1024 samples keeps the unit invariants. -/
theorem Channel.block_sound (T : Transc) (i : Bool) (c : Channel) (u : List F32) (h : c.sound = true)
    (h2 : u.length ≤ 1024) : (c.block T i u).1.sound = true := by
  rw [Channel.sound_iff] at h ⊢
  obtain ⟨h1, hb, h3, h4, h5, h6⟩ := h
  have hpre := fun x => runBlock_keeps (step := Tap.step T i)
    (P := fun t : Tap => t.inRange Config.nMd = true ∧ t.buf.wf = true)
    (fun s x hs => Tap.step_sound T i hs.1 hs.2) (s := c.pre) ⟨h1, hb⟩ x
  have hmt := fun x => runIf_keeps (step := Mt.step) (P := fun m : Mt => m.widx < Config.nMt ∧ m.buf.wf = true)
    (fun s x hs => ⟨(Mt.step_sound hs.2).2, (Mt.step_sound hs.2).1⟩) (s := c.mt) ⟨h3, h4⟩ c.regs.tapEn x
  have hed := fun x => runIf_keeps (step := Diff.step T i) (P := Diff.sound) (fun s x hs => Diff.step_sound T i hs) h5
    c.regs.edifEn x
  have hl := fun (e s : List F32) (he : e.length ≤ 1024) => sumLines_keeps T i c.regs e (P := Line.sound)
    (fun l hs => Line.block_sound T i c.regs l e hs he) (firstTwelve c.regs.lateLineCount.toNat) c.lines s h6
  unfold Channel.block
  simp only
  refine ⟨(hpre _).1, (hpre _).2, (hmt _).1, (hmt _).2, hed _, hl _ _ ?_⟩
  simpa using h2

end Sys2Proof.Machine
end

