-- ==== Sys2Proof/Laws/Decode.lean ====
section
/-!
SUPPORT. The laws of the command word: its fields read back, and its fields make it whole again
(30_encoding.md R160, R161).
-/

namespace Sys2Proof

@[simp] theorem opField_headWord (op : BitVec 6) (ch : BitVec 2) (sel n : BitVec 12) :
    opField (headWord op ch sel n) = op := by
  unfold opField headWord
  ext i hi
  simp only [BitVec.getElem_extractLsb', BitVec.getLsbD_append]
  grind

@[simp] theorem chField_headWord (op : BitVec 6) (ch : BitVec 2) (sel n : BitVec 12) :
    chField (headWord op ch sel n) = ch := by
  unfold chField headWord
  ext i hi
  simp only [BitVec.getElem_extractLsb', BitVec.getLsbD_append]
  grind

@[simp] theorem selField_headWord (op : BitVec 6) (ch : BitVec 2) (sel n : BitVec 12) :
    selField (headWord op ch sel n) = sel := by
  unfold selField headWord
  ext i hi
  simp only [BitVec.getElem_extractLsb', BitVec.getLsbD_append]
  grind

@[simp] theorem nField_headWord (op : BitVec 6) (ch : BitVec 2) (sel n : BitVec 12) :
    nField (headWord op ch sel n) = n := by
  unfold nField headWord
  ext i hi
  simp only [BitVec.getElem_extractLsb', BitVec.getLsbD_append]
  grind

/-- A word is the command word of its fields. -/
theorem headWord_fields (w : Word) : headWord (opField w) (chField w) (selField w) (nField w) = w := by
  unfold opField chField selField nField headWord
  ext i hi
  simp only [BitVec.getElem_append, BitVec.getElem_extractLsb']
  grind

/-- The opcode as a number is the word shifted down by 26 bits. -/
theorem opField_toNat (w : Word) : (opField w).toNat = w.toNat / 2 ^ 26 := by
  have := w.isLt
  simp only [opField, BitVec.extractLsb'_toNat, Nat.shiftRight_eq_div_pow]
  exact Nat.mod_eq_of_lt (by omega)

/-- The length of a command's words is the length its opcode gives (30_encoding.md R163). -/
theorem length_encode (i : Instr) : (encode i).length = opLen (opField ((encode i).headD 0)) := by
  cases i <;> simp [encode] <;> rfl

end Sys2Proof
end

