-- ==== Sys2Proof/Laws/Ops.lean ====
section
/-!
SUPPORT. One lemma per shared operation of Machine/Ops.lean: everything it can do.
-/

namespace Sys2Proof.Machine

/-- Completing a command whose words are at the head of the FIFO. -/
theorem State.consume_eq {s : State} {ws rest : List Word} {len : Nat} (h : s.cmdFifo = ws ++ rest)
    (hl : ws.length = len) : s.consume len = s.completed len rest := by
  subst hl
  have hd : s.cmdFifo.drop ws.length = rest := by rw [h, List.drop_left]
  unfold State.consume State.noteIdle State.completed
  simp only [hd]
  cases rest <;> rfl

/-- The error path of a command whose words are at the head of the FIFO. -/
theorem State.raiseError_eq {s : State} {ws rest : List Word} {c : Cause} {w : Word} {len : Nat}
    (h : s.cmdFifo = ws ++ rest) (hl : ws.length = len) : s.raiseError c w len = s.errored c w len rest := by
  subst hl
  have hd : s.cmdFifo.drop ws.length = rest := by rw [h, List.drop_left]
  unfold State.raiseError State.consume State.noteIdle State.errored
  simp only [hd]
  cases rest
  · simp [State.raiseIrq, IrqBit.mask, IrqBit.index, BitVec.or_assoc]
  · simp [IrqBit.mask, IrqBit.index]

theorem State.rspFull_iff (s : State) : s.rspFull = true ↔ 64 ≤ s.rspFifo.length := by
  unfold State.rspFull
  exact decide_eq_true_iff

/-- With room for a response, a command that pushes one goes on. -/
theorem whenRoom_room {s : State} {go : Result State} (h : s.rspFifo.length < 64) : whenRoom s go = go := by
  have : ¬ s.rspFull = true := by rw [State.rspFull_iff]; omega
  simp [whenRoom, this]

/-- With the response FIFO full, it makes no step. -/
theorem whenRoom_full {s : State} {go : Result State} (h : s.rspFifo.length = 64) : whenRoom s go = .next s := by
  have : s.rspFull = true := by rw [State.rspFull_iff]; omega
  simp [whenRoom, this]

/-- A stall or the command itself. -/
theorem whenRoom_cases {s t : State} {go : Result State} (h : whenRoom s go = .next t) :
    (64 ≤ s.rspFifo.length ∧ t = s) ∨ (s.rspFifo.length < 64 ∧ go = .next t) := by
  unfold whenRoom at h
  split at h
  · rename_i hf
    exact .inl ⟨(State.rspFull_iff s).1 hf, by simpa using h.symm⟩
  · rename_i hf
    rw [State.rspFull_iff] at hf
    exact .inr ⟨by omega, h⟩

@[simp] theorem checked_ok {α : Type} (s : State) (w : Word) (len : Nat) (a : α) (go : α → Result State) :
    checked s w len (.ok a) go = go a := rfl

@[simp] theorem checked_error {α : Type} (s : State) (w : Word) (len : Nat) (c : Cause) (go : α → Result State) :
    checked s w len (.error c) go = .next (s.raiseError c w len) := rfl

/-- The error path, or the command with what its checks resolved. -/
theorem checked_cases {α : Type} {s t : State} {w : Word} {len : Nat} {r : Except Cause α} {go : α → Result State}
    (h : checked s w len r go = .next t) :
    (∃ c, r = .error c ∧ t = s.raiseError c w len) ∨ (∃ a, r = .ok a ∧ go a = .next t) := by
  cases r with
  | error c => exact .inl ⟨c, rfl, by simpa using h.symm⟩
  | ok a => exact .inr ⟨a, rfl, h⟩

/-- A check that gives a cause refused with it. -/
theorem causeOf_eq_some {α : Type} {r : Except Cause α} {c : Cause} : causeOf r = some c ↔ r = .error c := by
  cases r <;> simp [causeOf]

/-- A check that gives no cause resolved its operands. -/
theorem causeOf_eq_none {α : Type} {r : Except Cause α} : causeOf r = none ↔ ∃ a, r = .ok a := by
  cases r <;> simp [causeOf]

/-- The channels a mask selects. -/
theorem State.onChannels_eq (s : State) (m : BitVec 2) (f : Chan → Channel → Channel) :
    s.onChannels m f = s.mapped m f := by
  unfold State.onChannels State.mapped
  cases m.getLsbD 0 <;> cases m.getLsbD 1 <;> rfl

@[simp] theorem State.chan_setChan_self (s : State) (k : Chan) (c : Channel) : (s.setChan k c).chan k = c := by
  cases k <;> rfl

theorem State.chan_setChan_ne {j k : Chan} (h : j ≠ k) (s : State) (c : Channel) : (s.setChan k c).chan j = s.chan j := by
  cases j <;> cases k <;> first | rfl | exact absurd rfl h

/-- Words read from a block: as many as asked for, each written and readable. -/
theorem State.loadFrom_some {s : State} {r : Region} {k n : Nat} {vs : List F32} (h : s.loadFrom r k n = some vs) :
    vs.length = n ∧ ∀ j v, vs[j]? = some v →
      r.addr (k + j) ∈ s.written ∧ s.mem.readWord (r.addr (k + j)) = some v.bits := by
  induction n generalizing k vs with
  | zero =>
    simp only [State.loadFrom, Option.some.injEq] at h
    subst h
    simp
  | succ n ih =>
    unfold State.loadFrom at h
    split at h
    · rename_i hw
      split at h
      · rename_i w ws hr hl
        have ⟨h1, h2⟩ := ih hl
        simp only [Option.some.injEq] at h
        subst h
        refine ⟨by simp [h1], fun j v hj => ?_⟩
        cases j with
        | zero =>
          simp only [List.getElem?_cons_zero, Option.some.injEq] at hj
          subst hj
          exact ⟨by simpa using hw, hr⟩
        | succ j =>
          simp only [List.getElem?_cons_succ] at hj
          have := h2 j v hj
          rwa [show k + 1 + j = k + (j + 1) by omega] at this
      · simp at h
    · simp at h

/-- A block whose words are all written and readable is read. -/
theorem State.loadFrom_of_words {s : State} {r : Region} {k n : Nat} {f : Nat → F32}
    (h : ∀ j < n, r.addr (k + j) ∈ s.written ∧ s.mem.readWord (r.addr (k + j)) = some (f j).bits) :
    s.loadFrom r k n = some ((List.range n).map f) := by
  induction n generalizing k f with
  | zero => rfl
  | succ n ih =>
    have h0 := h 0 (by omega)
    have hi := ih (k := k + 1) (f := fun j => f (j + 1))
      (fun j hj => by have := h (j + 1) (by omega); rwa [show k + (j + 1) = k + 1 + j by omega] at this)
    unfold State.loadFrom
    rw [hi]
    simp only [Nat.add_zero] at h0
    simp [h0.1, h0.2, List.range_succ_eq_map, Function.comp_def]

/-- A block with an unwritten word is not read. -/
theorem State.loadFrom_none {s : State} {r : Region} {k n j : Nat} (hj : j < n) (h : r.addr (k + j) ∉ s.written) :
    s.loadFrom r k n = none := by
  induction n generalizing k j with
  | zero => omega
  | succ n ih =>
    unfold State.loadFrom
    cases j with
    | zero => simp_all
    | succ j =>
      rw [ih (k := k + 1) (j := j) (by omega) (by rwa [show k + 1 + j = k + (j + 1) by omega])]
      split
      · split <;> simp_all
      · rfl

end Sys2Proof.Machine
end

