-- ==== Sys2Proof/Laws/PerInstr.lean ====
section
/-!
SUPPORT. Statements for all commands, one lemma per constructor. CommandWords: a command's words are its length by
30_encoding.md R163, and the first of them carries the opcode that gives this length.
-/

namespace Sys2Proof.Laws.CommandWords

open Sys2Proof.Machine (wordsOf headOf)

/-- The number of words of a command, from the command and from its opcode (30_encoding.md R163). -/
def Statement (i : Instr) : Prop := (encode i).length = wordsOf i ∧ opLen (opField (headOf i)) = wordsOf i

theorem nop (ch : BitVec 2) (sel n : BitVec 12) : Statement (.nop ch sel n) := by
  simp [Statement, encode, headOf, wordsOf, opLen]

theorem sync (ch : BitVec 2) (sel n : BitVec 12) : Statement (.sync ch sel n) := by
  simp [Statement, encode, headOf, wordsOf, opLen]

theorem wreg (ch : BitVec 2) (sel n : BitVec 12) (v : Word) : Statement (.wreg ch sel n v) := by
  simp [Statement, encode, headOf, wordsOf, opLen]

theorem rreg (ch : BitVec 2) (sel n : BitVec 12) : Statement (.rreg ch sel n) := by
  simp [Statement, encode, headOf, wordsOf, opLen]

theorem setfs (ch : BitVec 2) (sel n : BitVec 12) (v : Word) : Statement (.setfs ch sel n v) := by
  simp [Statement, encode, headOf, wordsOf, opLen]

theorem clear (ch : BitVec 2) (sel n : BitVec 12) : Statement (.clear ch sel n) := by
  simp [Statement, encode, headOf, wordsOf, opLen]

theorem proc (ch : BitVec 2) (sel n : BitVec 12) : Statement (.proc ch sel n) := by
  simp [Statement, encode, headOf, wordsOf, opLen]

theorem rngseed (ch : BitVec 2) (sel n : BitVec 12) (v : Word) : Statement (.rngseed ch sel n v) := by
  simp [Statement, encode, headOf, wordsOf, opLen]

theorem rngu (ch : BitVec 2) (sel n : BitVec 12) : Statement (.rngu ch sel n) := by
  simp [Statement, encode, headOf, wordsOf, opLen]

theorem rngi (ch : BitVec 2) (sel n : BitVec 12) : Statement (.rngi ch sel n) := by
  simp [Statement, encode, headOf, wordsOf, opLen]

theorem rngf (ch : BitVec 2) (sel n : BitVec 12) : Statement (.rngf ch sel n) := by
  simp [Statement, encode, headOf, wordsOf, opLen]

theorem rngb (ch : BitVec 2) (sel n : BitVec 12) : Statement (.rngb ch sel n) := by
  simp [Statement, encode, headOf, wordsOf, opLen]

theorem vgen (ch : BitVec 2) (sel n : BitVec 12) (v : Word) : Statement (.vgen ch sel n v) := by
  simp [Statement, encode, headOf, wordsOf, opLen]

theorem vgenx (ch : BitVec 2) (sel n : BitVec 12) (v u : Word) : Statement (.vgenx ch sel n v u) := by
  simp [Statement, encode, headOf, wordsOf, opLen]

theorem bqresp (ch : BitVec 2) (sel n : BitVec 12) (v : Word) : Statement (.bqresp ch sel n v) := by
  simp [Statement, encode, headOf, wordsOf, opLen]

theorem uproc (ch : BitVec 2) (sel n : BitVec 12) : Statement (.uproc ch sel n) := by
  simp [Statement, encode, headOf, wordsOf, opLen]

theorem rder (ch : BitVec 2) (sel n : BitVec 12) : Statement (.rder ch sel n) := by
  simp [Statement, encode, headOf, wordsOf, opLen]

theorem wder (ch : BitVec 2) (sel n : BitVec 12) (v : Word) : Statement (.wder ch sel n v) := by
  simp [Statement, encode, headOf, wordsOf, opLen]

end Sys2Proof.Laws.CommandWords
end

