-- ==== Sys2Proof/Laws/Fetch.lean ====
section
/-!
SUPPORT. The laws of decoding, fetching and STATUS: operand words, lengths by opcode, the first word of a command, and
each STATUS bit.
-/

namespace Sys2Proof

/-- A command with one operand word takes it from the front. -/
theorem operand1_eq_ok {f : Word → Instr} {ws rest : List Word} {i : Instr} :
    operand1 f ws = .ok (i, rest) ↔ ∃ v, ws = v :: rest ∧ i = f v := by
  cases ws with
  | nil => simp [operand1]
  | cons v ws => simp only [operand1, Except.ok.injEq, Prod.mk.injEq, List.cons.injEq]; grind

/-- A command with two operand words takes them from the front. -/
theorem operand2_eq_ok {f : Word → Word → Instr} {ws rest : List Word} {i : Instr} :
    operand2 f ws = .ok (i, rest) ↔ ∃ v u, ws = v :: u :: rest ∧ i = f v u := by
  match ws with
  | [] => simp [operand2]
  | [_] => simp [operand2]
  | v :: u :: ws => simp only [operand2, Except.ok.injEq, Prod.mk.injEq, List.cons.injEq]; grind

/-- Missing operand words are never an illegal opcode. -/
@[simp] theorem operand1_ne_illegal (f : Word → Instr) (ws : List Word) (w : Word) :
    operand1 f ws ≠ .error (.illegalOp w) := by
  cases ws <;> simp [operand1]

@[simp] theorem operand2_ne_illegal (f : Word → Word → Instr) (ws : List Word) (w : Word) :
    operand2 f ws ≠ .error (.illegalOp w) := by
  match ws with
  | [] => simp [operand2]
  | [_] => simp [operand2]
  | _ :: _ :: _ => simp [operand2]

end Sys2Proof

namespace Sys2Proof.Machine

/-- The decoder's length and the rule's (30_encoding.md R163). -/
theorem opLen_eq (w : Word) : opLen (opField w) = lengthOfOp (opOf w) := by
  unfold opLen lengthOfOp opOf
  rw [← opField_toNat]
  generalize (opField w).toNat = o
  split <;> simp_all

/-- A command's length, from the command and from its first word. -/
@[simp] theorem length_encode_eq (i : Instr) : (encode i).length = wordsOf i := by
  cases i <;> rfl

@[simp] theorem opLen_headOf (i : Instr) : opLen (opField (headOf i)) = wordsOf i := by
  rw [← length_encode_eq, length_encode]
  rfl

theorem wordsOf_pos (i : Instr) : 1 ≤ wordsOf i := by
  cases i <;> simp [wordsOf]

/-- The words of a command begin with its first word. -/
theorem encode_eq_cons (i : Instr) : encode i = headOf i :: (encode i).tail := by
  cases i <;> rfl

/-- Whether a command pushes a response is a function of its opcode (45_control.md R451). -/
@[simp] theorem pushesResponse_headOf (i : Instr) : pushesResponse (opField (headOf i)) = responds i := by
  cases i <;> simp [headOf, encode, responds, pushesResponse]

/-! ### STATUS -/

theorem statusBit_getLsbD (b : Bool) {k : Nat} (hk : k < 32) (j : Nat) :
    (statusBit b k).getLsbD j = (b && decide (j = k)) := by
  unfold statusBit
  cases b
  · simp
  · simp only [if_true, BitVec.getLsbD_shiftLeft, BitVec.getLsbD_one, Bool.true_and]
    by_cases h : j = k
    · subst h; simp [hk]
    · have : ¬ (j - k = 0 ∧ k ≤ j) := by omega
      simp only [h, decide_false, Bool.and_eq_false_iff, Bool.not_eq_eq_eq_not, Bool.not_false, decide_eq_true_eq,
        decide_eq_false_iff_not]
      omega

/-- Every STATUS bit (10_state.md R44). -/
theorem State.status_getLsbD (s : State) (k : Nat) :
    s.status.getLsbD k =
      match k with
      | 0 => s.cmdLevel != 0
      | 1 => s.halt
      | 2 => s.cmdLevel == Config.cmdDepth
      | 3 => s.rspLevel != 0
      | 4 => s.rspLevel == Config.rspDepth
      | 5 => s.waitOp
      | 6 => s.stall
      | _ => false := by
  unfold State.status
  simp only [BitVec.getLsbD_or, statusBit_getLsbD _ (show (0 : Nat) < 32 by decide),
    statusBit_getLsbD _ (show (1 : Nat) < 32 by decide), statusBit_getLsbD _ (show (2 : Nat) < 32 by decide),
    statusBit_getLsbD _ (show (3 : Nat) < 32 by decide), statusBit_getLsbD _ (show (4 : Nat) < 32 by decide),
    statusBit_getLsbD _ (show (5 : Nat) < 32 by decide), statusBit_getLsbD _ (show (6 : Nat) < 32 by decide)]
  match k with
  | 0 => simp
  | 1 => simp
  | 2 => simp
  | 3 => simp
  | 4 => simp
  | 5 => simp
  | 6 => simp
  | k + 7 => simp

/-- WAITOP of a FIFO with a first word (10_state.md R44). -/
theorem State.waitOp_cons {s : State} {w : Word} {ws : List Word} (h : s.cmdFifo = w :: ws) :
    s.waitOp = (!s.halt && decide (s.cmdFifo.length < lengthOfOp (opOf w))) := by
  unfold State.waitOp
  rw [← opLen_eq]
  split
  · simp_all
  · rename_i v vs hv
    rw [h] at hv
    obtain ⟨rfl, rfl⟩ := hv
    rfl

/-- STALL of a FIFO with a first word (10_state.md R44). -/
theorem State.stall_cons {s : State} {w : Word} {ws : List Word} (h : s.cmdFifo = w :: ws) :
    s.stall = (!s.halt && !s.waitOp && pushesResponse (opField w) && s.rspFull) := by
  unfold State.stall
  split
  · simp_all
  · rename_i v vs hv
    rw [h] at hv
    obtain ⟨rfl, rfl⟩ := hv
    rfl

end Sys2Proof.Machine
end

