-- ==== Sys2Proof/Laws/Host.lean ====
section
/-!
SUPPORT. The laws of the host's accesses: where an address goes, which commands are pending and what they own, and one
lemma for each operation that says everything it can do (20_memory.md R121-R136, 10_state.md R49, R71).
-/

namespace Sys2Proof.Machine

/-! ### Results of the command stream -/

/-- While no command word is lost a result is the value itself. -/
theorem State.answerResult_of_kept {s : State} (h : s.cmdLost = false) (v : Word) : s.answerResult v = s.answer v := by
  simp [State.answerResult, h]

/-- While a command word is lost it is a draw (70_reset_and_hazards.md R621). -/
theorem State.answerResult_of_lost {s : State} (h : s.cmdLost = true) (v : Word) : s.answerResult v = s.drawWord := by
  simp [State.answerResult, h]

/-- A result returns one word, and only the count of draws moves beside it. -/
theorem State.answerResult_shape (s : State) (v : Word) :
    ∃ (w : Word) (d : Nat), s.answerResult v = { s with hostReads := s.hostReads ++ [w], draws := d } := by
  unfold State.answerResult
  split
  · exact ⟨_, _, rfl⟩
  · exact ⟨_, s.draws, rfl⟩

/-- While no command word is lost a partly open word is the value itself. -/
theorem State.answerBits_of_kept {s : State} (h : s.cmdLost = false) (mask v : Word) :
    s.answerBits mask v = s.answer v := by
  simp [State.answerBits, h]

/-- While a command word is lost the bits of the mask are drawn (70_reset_and_hazards.md R621). -/
theorem State.answerBits_of_lost {s : State} (h : s.cmdLost = true) (mask v : Word) :
    s.answerBits mask v =
      State.answer { s with draws := s.draws + 1 } ((v &&& ~~~mask) ||| (Config.draw s.draws &&& mask)) := by
  simp [State.answerBits, h]

/-- A partly open word returns one word, and only the count of draws moves beside it. -/
theorem State.answerBits_shape (s : State) (mask v : Word) :
    ∃ (w : Word) (d : Nat), s.answerBits mask v = { s with hostReads := s.hostReads ++ [w], draws := d } := by
  unfold State.answerBits
  split
  · exact ⟨_, _, rfl⟩
  · exact ⟨_, s.draws, rfl⟩

/-! ### Checking for a dropped word and recovering from it -/

/-- No command word is lost exactly if none was dropped since reset or the last recovery. -/
theorem State.cmdLost_eq_false_iff (s : State) : s.cmdLost = false ↔ s.cmdLoss = .none := by
  cases h : s.cmdLoss <;> simp [State.cmdLost, h]

/-- A read of IP.CMDOVF = 1 turns an unseen loss into a seen one, and nothing else. -/
theorem State.noteCheck_cmdLoss (s : State) :
    s.noteCheck.cmdLoss = if s.cmdLoss = .unseen ∧ s.ip.getLsbD 3 = true then .seen else s.cmdLoss := by
  unfold State.noteCheck State.pending
  split <;> simp_all [IrqBit.index]

/-- The check loses no loss and finds none. -/
@[simp] theorem State.noteCheck_cmdLost (s : State) : s.noteCheck.cmdLost = s.cmdLost := by
  unfold State.cmdLost
  rw [State.noteCheck_cmdLoss]
  split
  · rename_i h
    rw [h.1]
    rfl
  · rfl

/-- A recovery takes back a seen loss only. -/
theorem State.recoverCmd_cmdLoss (s : State) :
    s.recoverCmd.cmdLoss = if s.cmdLoss = .seen then .none else s.cmdLoss := by
  unfold State.recoverCmd
  split <;> rfl

/-! ### Where an address goes -/

/-- The word a mapped sample or vector address names, and its address again. -/
theorem busTarget_word_iff {a : BitVec 18} {r : Region} {k : Nat} :
    busTarget .word a = .word r k ↔ a.toNat = r.addr k ∧ k < r.words := by
  have ha := a.isLt
  constructor
  · intro h
    unfold busTarget at h
    split at h
    · rename_i hw
      unfold locate at h
      split at h
      · cases h
      · unfold regionAt at h
        split at h
        · cases h
        · rename_i r' hr
          split at h
          · rename_i hk
            cases h
            refine ⟨?_, hk⟩
            split at hr <;> first | (cases hr; done) | (cases hr; simp only [Region.addr, Region.base] at *; omega)
          · cases h
    · cases h
  · rintro ⟨h, hk⟩
    have h4 : a.toNat % 4 = 0 := by rw [h]; cases r <;> simp only [Region.addr, Region.base] <;> omega
    have hb : ¬ a.toNat < 0x38 := by rw [h]; cases r <;> simp only [Region.addr, Region.base] <;> omega
    have hq : (a.toNat - r.base) / 4 = k := by rw [h]; simp only [Region.addr]; omega
    have hr : regionAt a.toNat = some r := by
      unfold regionAt
      rw [h]
      cases r <;> simp only [Region.addr, Region.base, Region.words, Config.bs, Config.vecLen] at *
      · rw [show (0x10000 + 4 * k) / 0x4000 = 4 by omega]; rfl
      · rw [show (0x14000 + 4 * k) / 0x4000 = 5 by omega]; rfl
      · rw [show (0x18000 + 4 * k) / 0x4000 = 6 by omega]; rfl
      · rw [show (0x1C000 + 4 * k) / 0x4000 = 7 by omega]; rfl
      · rw [show (0x20000 + 4 * k) / 0x4000 = 8 by omega]; rfl
    simp only [busTarget, h4, and_self, if_true, locate, if_neg hb, hr, hq, if_pos hk]

/-- IN_L and IN_R lie below 0x18000, the other regions at and above it (20_memory.md R121). -/
theorem Region.isInput_iff {r : Region} {k : Nat} (hk : k < r.words) : r.isInput = true ↔ r.addr k < 0x18000 := by
  cases r <;> simp only [Region.isInput, Region.addr, Region.base, Region.words, Config.bs, Config.vecLen] at *
  all_goals first | (simp only [true_iff]; omega) | (simp only [Bool.false_eq_true, false_iff]; omega)

/-! ### The pending commands -/

theorem pendingHeads_drop (k : Nat) (ws : List Word) : pendingHeads k ws = pendingHeads 0 (ws.drop k) := by
  induction k generalizing ws with
  | zero => rfl
  | succ k ih =>
    cases ws with
    | nil => rfl
    | cons w ws => exact ih ws

/-- A command at the front is pending by its first word. -/
@[simp] theorem pendingHeads_encode (i : Instr) (rest : List Word) :
    pendingHeads 0 (encode i ++ rest) = headOf i :: pendingHeads 0 rest := by
  rw [encode_eq_cons, List.cons_append, pendingHeads, opLen_headOf, pendingHeads_drop,
    List.drop_left' (by rw [List.length_tail, length_encode_eq])]

/-- An illegal word stands for itself (30_encoding.md R167). -/
theorem pendingHeads_illegal {w : Word} (h : illegalOp (opOf w)) (rest : List Word) :
    pendingHeads 0 (w :: rest) = w :: pendingHeads 0 rest := by
  have hl : opLen (opField w) = 1 := by
    rw [opLen_eq]
    unfold illegalOp at h
    unfold lengthOfOp
    rw [if_neg (by omega), if_neg (by omega)]
  rw [pendingHeads, hl]

/-- A command whose last words are missing is pending by its first word. -/
theorem mem_pendingHeads_take {i : Instr} {m : Nat} {w : Word} (h : w ∈ pendingHeads 0 ((encode i).take m)) :
    w = headOf i := by
  cases m with
  | zero => simp [pendingHeads] at h
  | succ m =>
    rw [encode_eq_cons, List.take_succ_cons, pendingHeads, opLen_headOf, pendingHeads_drop,
      List.drop_eq_nil_of_le (by rw [List.length_take, List.length_tail, length_encode_eq]; omega)] at h
    simpa [pendingHeads] using h

/-- What is pending in a FIFO of commands, illegal words and a last command that may be incomplete. -/
theorem mem_pendingHeads {items : List (List Word)} {pending : List Instr} {last : Instr} {m : Nat} {w : Word}
    (hi : ∀ p ∈ items, (∃ i ∈ pending, p = encode i) ∨ ∃ w, illegalOp (opOf w) ∧ p = [w])
    (h : w ∈ pendingHeads 0 (items.flatten ++ (encode last).take m)) :
    (∃ i ∈ last :: pending, w = headOf i) ∨ illegalOp (opOf w) := by
  induction items with
  | nil => exact .inl ⟨last, by simp, mem_pendingHeads_take h⟩
  | cons p items ih =>
    have hi' := fun q hq => hi q (List.mem_cons_of_mem _ hq)
    rw [List.flatten_cons, List.append_assoc] at h
    rcases hi p (by simp) with ⟨i, hp, rfl⟩ | ⟨v, hv, rfl⟩
    · rw [pendingHeads_encode] at h
      rcases List.mem_cons.1 h with rfl | h
      · exact .inl ⟨i, by simp [hp], rfl⟩
      · exact ih hi' h
    · rw [List.singleton_append, pendingHeads_illegal hv] at h
      rcases List.mem_cons.1 h with rfl | h
      · exact .inr hv
      · exact ih hi' h

/-! ### What a pending command owns -/

theorem ownsRead_illegal {w : Word} (h : illegalOp (opOf w)) (r : Region) (k : Nat) : ownsRead w r k = false := by
  unfold illegalOp at h
  unfold ownsRead
  rw [opField_toNat]
  rw [opOf] at h
  split <;> first | rfl | omega

theorem ownsWrite_illegal {w : Word} (h : illegalOp (opOf w)) (r : Region) (k : Nat) : ownsWrite w r k = false := by
  unfold illegalOp at h
  unfold ownsWrite
  rw [opField_toNat]
  rw [opOf] at h
  split <;> first | rfl | omega

theorem exists_chan {p : Chan → Prop} : (∃ c, p c) ↔ p .L ∨ p .R :=
  ⟨fun ⟨c, h⟩ => by cases c <;> simp [h], fun h => h.elim (fun h => ⟨_, h⟩) (fun h => ⟨_, h⟩)⟩

theorem maskOf_and_eq_zero (ch : BitVec 2) :
    (maskOf .L &&& ch = 0 ↔ ch[0] = false) ∧ (maskOf .R &&& ch = 0 ↔ ch[1] = false) := by
  revert ch
  decide

/-- What a pending command writes, by its first word and by the command (20_memory.md R133). -/
theorem ownsWrite_headOf_iff {i : Instr} {r : Region} {k : Nat} (hk : k < 1024) :
    ownsWrite (headOf i) r k = true ↔ writesWord i (r.addr k) := by
  have hn : ∀ n : BitVec 12, n.toNat < 4096 := fun n => n.isLt
  have hL := fun ch => (maskOf_and_eq_zero ch).1
  have hR := fun ch => (maskOf_and_eq_zero ch).2
  cases i <;> cases r <;> first
    | exact iff_of_false (by
        simp only [headOf, encode, List.headD_cons, ownsWrite, opField_headWord]
        exact Bool.false_ne_true) id
    | simp [headOf, encode, ownsWrite, writesWord, Region.addr, Region.base, exists_chan, outBase] <;> grind

/-- What a pending command reads, by its first word and by the command (20_memory.md R133). -/
theorem ownsRead_headOf_iff {i : Instr} {r : Region} {k : Nat} (hk : k < 1024) :
    ownsRead (headOf i) r k = true ↔ readsWord i (r.addr k) := by
  have hn : ∀ n : BitVec 12, n.toNat < 4096 := fun n => n.isLt
  have hL := fun ch => (maskOf_and_eq_zero ch).1
  have hR := fun ch => (maskOf_and_eq_zero ch).2
  cases i <;> cases r <;> first
    | exact iff_of_false (by
        simp only [headOf, encode, List.headD_cons, ownsRead, opField_headWord]
        exact Bool.false_ne_true) id
    | (simp [headOf, encode, ownsRead, readsWord, Region.addr, Region.base, exists_chan, inBase]; grind)

/-! ### Reads and writes of sample and vector words -/

theorem Region.words_eq (r : Region) : r.words = 1024 := by cases r <;> rfl

/-- A read of a word that no pending command writes is no hazard. -/
theorem State.readHazard_eq_false {s : State} {items : List (List Word)} {pending : List Instr} {last : Instr} {m : Nat}
    {r : Region} {k : Nat} (hk : k < r.words) (hs : s.cmdFifo = items.flatten ++ (encode last).take m)
    (hi : ∀ p ∈ items, (∃ i ∈ pending, p = encode i) ∨ ∃ w, illegalOp (opOf w) ∧ p = [w])
    (hw : ∀ i ∈ last :: pending, ¬ writesWord i (r.addr k)) : s.readHazard r k = false := by
  rw [Region.words_eq] at hk
  unfold State.readHazard
  rw [hs, List.any_eq_false]
  intro w h
  rcases mem_pendingHeads hi h with ⟨i, hi', rfl⟩ | hv
  · exact fun h => hw i hi' ((ownsWrite_headOf_iff hk).1 h)
  · simp [ownsWrite_illegal hv]

/-- A write of a word that no pending command reads or writes is no hazard. -/
theorem State.writeHazard_eq_false {s : State} {items : List (List Word)} {pending : List Instr} {last : Instr} {m : Nat}
    {r : Region} {k : Nat} (hk : k < r.words) (hs : s.cmdFifo = items.flatten ++ (encode last).take m)
    (hi : ∀ p ∈ items, (∃ i ∈ pending, p = encode i) ∨ ∃ w, illegalOp (opOf w) ∧ p = [w])
    (hw : ∀ i ∈ last :: pending, ¬ writesWord i (r.addr k)) (hr : ∀ i ∈ last :: pending, ¬ readsWord i (r.addr k)) :
    s.writeHazard r k = false := by
  rw [Region.words_eq] at hk
  unfold State.writeHazard
  rw [hs, List.any_eq_false]
  intro w h
  rcases mem_pendingHeads hi h with ⟨i, hi', rfl⟩ | hv
  · rw [Bool.or_eq_true, not_or]
    exact ⟨fun h => hr i hi' ((ownsRead_headOf_iff hk).1 h), fun h => hw i hi' ((ownsWrite_headOf_iff hk).1 h)⟩
  · simp [ownsWrite_illegal hv, ownsRead_illegal hv]

/-- A read of a sample or vector word: the fault HAZARD, the word a step determines, or a draw. -/
theorem State.readSample_eq (s : State) (r : Region) (k : Nat) :
    s.readSample r k = if s.readHazard r k then .fault .hazard else .next (match s.hostWord r k with
      | some w => s.answer w
      | none => s.drawWord) := by
  unfold State.readSample
  split
  · rfl
  · split <;> simp_all

/-- A write of a sample or vector word changes memory and, for an IN word, the written set. -/
theorem State.writeSample_cases {s t : State} {r : Region} {k : Nat} {w : Word} (h : s.writeSample r k w = .next t) :
    t.mem = s.mem.writeWord (r.addr k) w ∧
      t.written = (if r.isInput then insertAddr (r.addr k) s.written else s.written) ∧
      { t with mem := s.mem, written := s.written } = s := by
  unfold State.writeSample at h
  split at h
  · cases h
  · cases h
    split <;> exact ⟨rfl, rfl, rfl⟩

end Sys2Proof.Machine
end

