-- ==== Sys2Proof/WellFormed.lean ====
section
/-!
DEFINITION. Well-formed commands: those whose own words raise no command error (60_exceptions.md R540-R544). An
ill-formed command still has a meaning: the error path of 60_exceptions.md R545 with the cause its check names.
-/

namespace Sys2Proof

/-- The command raises no error (60_exceptions.md R540). -/
def wellFormed (i : Instr) : Bool := (Machine.instrError i).isNone

/-- The command raises no error, as a proposition. -/
abbrev WellFormed (i : Instr) : Prop := wellFormed i = true

end Sys2Proof
end

