-- ==== Sys2Proof/Tests/Slice0.lean ====
section
/-!
SUPPORT. The model's own tests: the WellFormed smoke test, decoding of words written out from the spec's encodings,
single steps against the vectors of 95_test_vectors.md, and for every obligation with hypotheses a witness that meets
them, clause by clause.
-/

namespace Sys2Proof.Tests

open Sys2Proof.Machine

set_option Elab.async false

/-! ### The test state -/

/-- A small state: everything at its reset value, the units before their derivation. -/
def base : State where
  ie := 0
  ip := 0
  halt := false
  errCause := none
  errCmd := 0
  errCp := 0
  cp := 0
  cmdFifo := []
  rspFifo := []
  glob := GlobRegs.reset
  chL := Channel.blank
  chR := Channel.blank
  x := 0
  mem := []
  written := []
  script := []
  hostReads := []
  draws := 0
  cmdLoss := .none

/-- The test state with these words in the command FIFO. -/
def ready (ws : List Word) : State := { base with cmdFifo := ws }

/-- The test state with the words of a command and one word more in the command FIFO. -/
def readyFor (i : Instr) : State := ready (encode i ++ [0x24000000])

/-- The test state with n words in the response FIFO and the words of a command in the command FIFO. -/
def readyRsp (n : Nat) (i : Instr) : State := { readyFor i with rspFifo := List.replicate n 0 }

/-- What a next state shows. -/
def shown {α : Type} (r : Result State) (f : State → α) : Option α :=
  match r with
  | .next t => some (f t)
  | .fault _ => none
  | .refused _ => none

/-- The word at word k of a region in the next state. -/
def shownWord (r : Result State) (g : Region) (k : Nat) : Option Word := (shown r (fun t => t.mem.readWord (g.addr k))).join

/-- The test state with these words in IN_L and IN_R. -/
def withInput (a b : List F32) (s : State) : State := State.storeFrom .inR 0 b (State.storeFrom .inL 0 a s)

/-! ### WellFormed: one ill-formed command for each check (60_exceptions.md R541, R544) -/

theorem test_wellFormed_accepts :
    wellFormed (.nop 0 0 0) = true ∧ wellFormed (.sync 0 0 0xFFF) = true ∧ wellFormed (.wreg 0b11 0x004 0 8) = true ∧
      wellFormed (.rreg 0b10 0x000 0) = true ∧ wellFormed (.setfs 0 0 0 0x45FA0000) = true ∧
      wellFormed (.clear 0b11 0x8BB 0) = true ∧ wellFormed (.proc 0 0 1024) = true ∧
      wellFormed (.vgenx 0 0 1 0 0x3F000000) = true ∧ wellFormed (.bqresp 0b01 0x1B4 0 0) = true ∧
      wellFormed (.uproc 0b10 0x006 1) = true ∧ wellFormed (.rder 0 0xF00 0) = true ∧
      wellFormed (.wder 0b11 0x100 0 0x3F000000) = true := by decide +kernel

theorem test_wellFormed_refuses_reserved :
    instrError (.nop 0 0 1) = some .reserved ∧ instrError (.sync 1 0 0) = some .reserved ∧
      instrError (.wreg 0 0xFFF 1 0) = some .reserved ∧ instrError (.rreg 0b11 0xFFF 1) = some .reserved ∧
      instrError (.setfs 0 1 0 0x7FC00000) = some .reserved ∧ instrError (.clear 0 0 1) = some .reserved ∧
      instrError (.proc 0 1 0) = some .reserved ∧ instrError (.rngseed 1 0 0 0) = some .reserved ∧
      instrError (.rngu 0 0 1) = some .reserved ∧ instrError (.rngi 0 1 0) = some .reserved ∧
      instrError (.rngf 2 0 0) = some .reserved ∧ instrError (.rngb 0 0 2) = some .reserved ∧
      instrError (.vgen 0 1 0 0) = some .reserved ∧ instrError (.vgenx 1 0 0 0 0x7FC00000) = some .reserved ∧
      instrError (.bqresp 0 0 1 0) = some .reserved := by decide +kernel

theorem test_wellFormed_refuses_badCh :
    instrError (.wreg 0 0 0 0) = some .badCh ∧ instrError (.rreg 0b11 0xFFF 0) = some .badCh ∧
      instrError (.clear 0 0x007 0) = some .badCh ∧ instrError (.bqresp 0b11 0x005 0 0) = some .badCh ∧
      instrError (.uproc 0b00 0x007 0) = some .badCh ∧ instrError (.rder 0 0x007 0) = some .badCh ∧
      instrError (.rder 1 0xF00 1) = some .badCh ∧ instrError (.wder 0 0x100 0 0) = some .badCh ∧
      instrError (.wder 3 0xF00 0 0) = some .badCh := by decide +kernel

theorem test_wellFormed_refuses_badSel :
    instrError (.wreg 1 0x000 0 0x7FC00000) = some .badSel ∧ instrError (.wreg 1 0x003 0 0) = some .badSel ∧
      instrError (.rreg 1 0x045 0) = some .badSel ∧ instrError (.clear 3 0xF00 0) = some .badSel ∧
      instrError (.bqresp 1 0x000 0 0) = some .badSel ∧ instrError (.uproc 1 0x01C 0) = some .badSel ∧
      instrError (.rder 1 0x1C0 0) = some .badSel ∧ instrError (.wder 1 0x80C 0 0) = some .badSel := by
  decide +kernel

theorem test_wellFormed_refuses_badN :
    instrError (.proc 0 0 0) = some .badN ∧ instrError (.proc 0 0 1025) = some .badN ∧
      instrError (.vgen 0 0 0 0) = some .badN ∧ instrError (.vgenx 0 0 1025 0 0x7FC00000) = some .badN ∧
      instrError (.uproc 1 0x006 0) = some .badN := by decide +kernel

theorem test_wellFormed_refuses_badField :
    instrError (.rder 1 0x101 1) = some .badField ∧ instrError (.rder 0 0xF00 1) = some .badField ∧
      instrError (.wder 1 0x100 1 0) = some .badField ∧ instrError (.wder 1 0x101 12 0) = some .badField ∧
      instrError (.wder 1 0x005 0 0x7FC00000) = some .badField := by decide +kernel

theorem test_wellFormed_refuses_badValue :
    instrError (.wreg 3 0x004 0 9) = some .badValue ∧ instrError (.wreg 1 0x016 0 0x7FC00000) = some .badValue ∧
      instrError (.setfs 0 0 0 0xFFC00000) = some .badValue ∧
      instrError (.vgenx 0 0 1 0 0x7FC00000) = some .badValue ∧
      instrError (.bqresp 1 0x005 0 0x7F800001) = some .badValue ∧
      instrError (.wder 1 0x100 0 0x7FC00000) = some .badValue := by decide +kernel

/-! ### Decoding words written out from 30_encoding.md R160, R165, R170 and the vectors V-ENC-1 to V-ENC-17 -/

theorem test_decode_nop : decode [0x00000000] = .ok (.nop 0 0 0, []) := by decide
theorem test_decode_sync : decode [0x04000005] = .ok (.sync 0 0 5, []) := by decide
theorem test_decode_wreg : decode [0x0B001000, 0x3F800000] = .ok (.wreg 0b11 0x001 0 0x3F800000, []) := by decide
theorem test_decode_rreg : decode [0x0D000000] = .ok (.rreg 0b01 0x000 0, []) := by decide
theorem test_decode_setfs : decode [0x10000000, 0x45FA0000] = .ok (.setfs 0 0 0 0x45FA0000, []) := by decide
theorem test_decode_clear : decode [0x15135000] = .ok (.clear 0b01 0x135 0, []) := by decide
theorem test_decode_proc : decode [0x18000004] = .ok (.proc 0 0 4, []) := by decide
theorem test_decode_rngseed : decode [0x20000000, 0x00000001] = .ok (.rngseed 0 0 0 1, []) := by decide
theorem test_decode_rngu : decode [0x24000000] = .ok (.rngu 0 0 0, []) := by decide
theorem test_decode_rngi : decode [0x28000000] = .ok (.rngi 0 0 0, []) := by decide
theorem test_decode_rngf : decode [0x2C000000] = .ok (.rngf 0 0 0, []) := by decide
theorem test_decode_rngb : decode [0x30000000] = .ok (.rngb 0 0 0, []) := by decide
theorem test_decode_vgen : decode [0x34000004, 0x00000000] = .ok (.vgen 0 0 4 0, []) := by decide
theorem test_decode_vgenx :
    decode [0x38000004, 0x00000000, 0x3F000000] = .ok (.vgenx 0 0 4 0 0x3F000000, []) := by decide
theorem test_decode_bqresp : decode [0x41005000, 0x447A0000] = .ok (.bqresp 0b01 0x005 0 0x447A0000, []) := by decide
theorem test_decode_uproc : decode [0x45101004] = .ok (.uproc 0b01 0x101 4, []) := by decide
theorem test_decode_rder : decode [0x49101000] = .ok (.rder 0b01 0x101 0, []) := by decide
theorem test_decode_wder : decode [0x4D100000, 0x3F000000] = .ok (.wder 0b01 0x100 0 0x3F000000, []) := by decide

/-- 30_encoding.md R167: OP 0x07, 0x0F, 0x14 and 0x3F are illegal; R163: an incomplete command waits. -/
theorem test_decode_rejects :
    decode [0x1C000000] = .error (.illegalOp 0x1C000000) ∧ decode [0x3C000000] = .error (.illegalOp 0x3C000000) ∧
      decode [0x50000000] = .error (.illegalOp 0x50000000) ∧ decode [0xFC000000] = .error (.illegalOp 0xFC000000) ∧
      decode [] = .error .empty ∧ decode [0x08000000] = .error .incomplete ∧
      decode [0x38000004, 0] = .error .incomplete := by decide

/-- The table form and the fetch helper reach the same command. -/
theorem test_tableWord :
    decodeTableWord 64 0x3F8000000B001000 = some (.wreg 0b11 0x001 0 0x3F800000) ∧
      decodeTableWord 32 0xFFFFFFFF18000004 = some (.proc 0 0 4) ∧
      (base.withFetchWord 32 0x18000004).fetch = .run (.proc 0 0 4) := by decide +kernel

/-! ### One step of each command -/

/-- 45_control.md R450; 10_state.md R48. -/
theorem test_nop : shown (exec (.nop 0 0 0) (ready [0])) (fun t => (t.cp, t.cmdFifo, t.ip)) = some (1, [], 0b000100) := by
  decide +kernel

/-- V-CTRL-12, V-ERR-1 (60_exceptions.md R545). -/
theorem test_nop_reserved :
    shown (exec (.nop 0 0 1) (ready [1, 0])) (fun t => (t.errCause, t.errCmd, t.errCp)) = some (some .reserved, 1, 0) ∧
      shown (exec (.nop 0 0 1) (ready [1, 0])) (fun t => (t.halt, t.cmdFifo, t.ip)) = some (true, [0], 0b000010) := by
  decide +kernel

/-- V-CTRL-11. -/
theorem test_sync : shown (exec (.sync 0 0 5) (readyFor (.sync 0 0 5))) (fun t => (t.rspFifo, t.ip)) = some ([5], 1) := by
  decide +kernel

/-- 45_control.md R451: no step while RSP is full. -/
theorem test_sync_stalls :
    shown (exec (.sync 0 0 5) (readyRsp 64 (.sync 0 0 5))) (fun t => (t.rspFifo.length, t.cmdFifo.length, t.ip)) =
      some (64, 2, 0) := by decide +kernel

/-- V-CTRL-1: 2.0 is clamped to 0.999, in L alone, and G of the stages follows. -/
theorem test_wreg :
    shown (exec (.wreg 1 0x023 0 0x40000000) (readyFor (.wreg 1 0x023 0 0x40000000)))
        (fun t => (t.chL.regs.edifFeedback, (t.chL.ed.stages.get 11).g, t.chR.regs.edifFeedback)) =
      some (⟨0x3F7FBE77⟩, ⟨0x3F7FBE77⟩, ⟨0⟩) := by decide +kernel

/-- V-CTRL-7, V-MT-7: -0.0 stores +0; the global registers are one copy. -/
theorem test_wreg_zero :
    shown (exec (.wreg 1 0x014 0 0x80000000) (readyFor (.wreg 1 0x014 0 0x80000000))) (fun t => t.chL.regs.dryOut) =
        some ⟨0⟩ ∧
      shown (exec (.wreg 2 0x002 0 0) (readyFor (.wreg 2 0x002 0 0))) (fun t => t.glob.interpEn) = some false := by
  decide +kernel

/-- V-CTRL-2. -/
theorem test_rreg :
    shown (exec (.rreg 1 0 0) (readyFor (.rreg 1 0 0))) (fun t => (t.rspFifo, t.cmdFifo)) =
      some ([0x473B8000], [0x24000000]) := by decide +kernel

/-- V-CTRL-4: FS clamps to 8000; a sample buffer is cleared. -/
theorem test_setfs :
    shown (exec (.setfs 0 0 0 0x3F800000) { readyFor (.setfs 0 0 0 0x3F800000) with
        chR := { Channel.blank with mt := { Mt.blank with buf := [(5, F32.one)], widx := 6 } } })
      (fun t => (t.glob.fs, t.chR.mt.buf, t.chR.mt.widx)) = some (⟨0x45FA0000⟩, [], 6) := by decide +kernel

/-- 45_control.md R458, R462: the history of HPC of L, and only of L. -/
theorem test_clear :
    shown (exec (.clear 1 0 0) { readyFor (.clear 1 0 0) with
        chL := { Channel.blank with hpc := { OnePole.blank true with y := F32.one } }
        chR := { Channel.blank with hpc := { OnePole.blank true with y := F32.one } } })
      (fun t => (t.chL.hpc.y, t.chR.hpc.y)) = some (F32.zero, F32.one) := by decide +kernel

/-- V-PROC-2: the cross-mix of IN through the dry path. -/
theorem test_proc :
    (fun t => [shownWord t .outL 0, shownWord t .outL 1, shownWord t .outR 2, shownWord t .outR 3])
        (exec (.proc 0 0 4) (withInput [⟨0x3F800000⟩, ⟨0x3F000000⟩, ⟨0xBE800000⟩, ⟨0⟩]
          [⟨0⟩, ⟨0x3F000000⟩, ⟨0x3E800000⟩, ⟨0x40000000⟩]
          { readyFor (.proc 0 0 4) with glob := { GlobRegs.reset with inputMix := F32.one } })) =
      [some 0x3F000000, some 0x3F000000, some 0, some 0x3F800000] := by decide +kernel

/-- 10_state.md R71: an unwritten IN word. -/
theorem test_proc_uninit :
    exec (.proc 0 0 2) (withInput [F32.one] [F32.one, F32.one] (readyFor (.proc 0 0 2))) = .fault .uninit := by rfl

/-- V-RNG-8e. -/
theorem test_rngseed :
    shown (exec (.rngseed 0 0 0 0xFFFFFFFF) (readyFor (.rngseed 0 0 0 0xFFFFFFFF))) (fun t => (t.x, t.rspFifo)) =
      some (0xFFFFFFFF, []) := by decide +kernel

/-- V-RNG-2 and V-RNG-8d. -/
theorem test_rngu :
    shown (exec (.rngu 0 0 0) { readyFor (.rngu 0 0 0) with x := 1 }) (fun t => (t.rspFifo, t.x)) =
        some ([0x015A4E36], 0x015A4E36) ∧
      shown (exec (.rngu 0 0 0) { readyFor (.rngu 0 0 0) with x := 0xFFFFFFFF }) (fun t => t.rspFifo) =
        some [0xFEA5B1CC] := by decide +kernel

/-- V-RNG-3. -/
theorem test_rngi :
    shown (exec (.rngi 0 0 0) { readyFor (.rngi 0 0 0) with x := 0x015A4E36 }) (fun t => (t.rspFifo, t.x)) =
      some ([0x0082A52F], 0x8082A52F) := by decide +kernel

/-- V-RNG-5 and V-RNG-6. -/
theorem test_rngf :
    shown (exec (.rngf 0 0 0) { readyFor (.rngf 0 0 0) with x := 0 }) (fun t => t.rspFifo) = some [0x30000000] ∧
      shown (exec (.rngf 0 0 0) { readyFor (.rngf 0 0 0) with x := 0x2DB5D7C6 }) (fun t => t.rspFifo) =
        some [0x3F800000] := by decide +kernel

/-- V-RNG-8a and V-RNG-8b. -/
theorem test_rngb :
    shown (exec (.rngb 0 0 0) { readyFor (.rngb 0 0 0) with x := 1 }) (fun t => t.rspFifo) = some [0xBF7A96C7] ∧
      shown (exec (.rngb 0 0 0) { readyFor (.rngb 0 0 0) with x := 0 }) (fun t => t.rspFifo) = some [0xBF800000] := by
  decide +kernel

/-- V-RNG-10. -/
theorem test_vgen :
    (fun t => [shownWord t .vec 0, shownWord t .vec 1, shownWord t .vec 3, shownWord t .vec 4])
        (exec (.vgen 0 0 4 0) (readyFor (.vgen 0 0 4 0))) =
      [some 0x2F800000, some 0x3BAD271B, some 0x3F2AE685, none] := by decide +kernel

/-- V-RNG-9. -/
theorem test_vgenx :
    (fun t => [shownWord t .vec 0, shownWord t .vec 1, shownWord t .vec 2])
        (exec (.vgenx 0 0 4 12345 0x3F000000) (readyFor (.vgenx 0 0 4 12345 0x3F000000))) =
      [some 0x3EFEA5B2, some 0x3F41C623, some 0x3ED6A16B] := by decide +kernel

/-- V-FILT-9a, with the reference instance: the response of LP6 at 0 Hz is 1. -/
theorem test_bqresp :
    shown (bqrespWith Transc.reference 1 0x005 0 0 { readyFor (.bqresp 1 0x005 0 0) with
        chL := { Channel.blank with bqx := { Biquad.blank .lp6 with b0 := ⟨0x3DFB4720⟩, a1 := ⟨0xBF60971C⟩ } } })
      (fun t => t.rspFifo) = some [0x3F800000] := by decide +kernel

/-- V-APF-7: an all-pass stage with SD 1 and G 0 is a one-sample delay. -/
theorem test_uproc :
    (fun t => [shownWord t .outL 0, shownWord t .outL 1, shownWord t .outL 2, shownWord t .outR 0])
        (exec (.uproc 1 0x010 3) (withInput [⟨0x3F800000⟩, ⟨0x40000000⟩, ⟨0x40400000⟩] [] (readyFor (.uproc 1 0x010 3)))) =
      [some 0, some 0x3F800000, some 0x40000000, none] := by decide +kernel

/-- V-DIAG-2, and MOD_EN of a stage. -/
theorem test_rder :
    shown (exec (.rder 0 0xF00 0) { readyFor (.rder 0 0xF00 0) with x := 7 }) (fun t => t.rspFifo) = some [7] ∧
      shown (exec (.rder 2 0x8BB 12) (readyFor (.rder 2 0x8BB 12))) (fun t => t.rspFifo) = some [1] := by
  decide +kernel

/-- V-DIAG-4: SD = 3, and refresh gives DA 3, DB 4. -/
theorem test_wder :
    shown (exec (.wder 1 0x101 0 3) (readyFor (.wder 1 0x101 0 3)))
        (fun t => ((t.chL.lines.get 0).mdly.sd, (t.chL.lines.get 0).mdly.da, (t.chL.lines.get 0).mdly.db,
          (t.chR.lines.get 0).mdly.sd)) = some (3, 3, 4, 1) := by decide +kernel

/-- V-DIAG-6. -/
theorem test_wder_gain :
    shown (exec (.wder 1 0x100 0 0x3F000000) (readyFor (.wder 1 0x100 0 0x3F000000)))
      (fun t => (t.chL.readField (.line 0 .gain), t.chR.readField (.line 0 .gain))) = some (0x3F000000, 0) := by
  decide +kernel

/-- V-HOST-3, V-HOST-6, V-HOST-7: host reads and bus errors, at the test state. -/
theorem test_host :
    shown (hostAccess Config.transc (.read .word 0x1C) base) (fun t => (t.hostReads, t.ip)) = some ([0], 0x10) ∧
      shown (hostAccess Config.transc (.read .word 0x02) base) (fun t => (t.hostReads, t.ip)) = some ([0], 0x20) ∧
      shown (hostAccess Config.transc (.write .word 0x38 0x3F800000) base) (fun t => (t.mem, t.ip)) = some ([], 0x20) ∧
      shown (hostAccess Config.transc (.read .word 0x00) base) (fun t => t.hostReads) = some [0x43534331] := by
  decide +kernel

/-- 10_state.md R71: a host read of an OUT word is a draw until the core has written it, whatever the host wrote; an IN
word reads back. -/
theorem test_host_out_word :
    shown (hostAccess Config.transc (.read .word 0x18000) (base.pokeWord 0x18000 7)) (fun t => t.draws) = some 1 ∧
      shown (hostAccess Config.transc (.read .word 0x18000) (base.storeWord 0x18000 7)) (fun t => (t.hostReads, t.draws)) =
        some ([7], 0) ∧
      shown (hostAccess Config.transc (.write .word 0x18000 7) base) (fun t => (t.written, t.mem.length)) = some ([], 4) ∧
      shown (hostAccess Config.transc (.write .word 0x10000 7) base) (fun t => t.written) = some [0x10000] := by
  decide +kernel

/-- 70_reset_and_hazards.md R621: a CMD write with 256 words queued is dropped and noted; a read of RSP is then a draw,
with a response there and with none; a read of IP that shows CMDOVF is the check. -/
theorem test_host_dropped_word :
    shown (hostAccess Config.transc (.write .word 0x18 0) (ready (List.replicate 256 0)))
        (fun t => (t.ip, t.cmdFifo.length, t.cmdLost)) = some (0b001000, 256, true) ∧
      shown (hostAccess Config.transc (.read .word 0x1C) { readyRsp 1 (.nop 0 0 0) with cmdLoss := .unseen })
        (fun t => (t.rspFifo, t.draws)) = some ([], 1) ∧
      shown (hostAccess Config.transc (.read .word 0x1C) { base with cmdLoss := .seen })
        (fun t => (t.ip, t.draws)) = some (0b010000, 1) ∧
      shown (hostAccess Config.transc (.read .word 0x14) { base with cmdLoss := .unseen, ip := 0b001000 })
        (fun t => (t.cmdLoss, t.draws)) = some (.seen, 1) ∧
      shown (hostAccess Config.transc (.read .word 0x14) { base with cmdLoss := .unseen, ip := 0b010111 })
        (fun t => t.cmdLoss) = some .unseen := by decide +kernel

/-- 70_reset_and_hazards.md R621, 60_exceptions.md R546: CMDFLUSH together with ERRCLR recovers a host that has checked
IP.CMDOVF; CMDFLUSH alone, ERRCLR alone, or both without the check do not; a soft reset does. -/
theorem test_host_recovery :
    shown (hostAccess Config.transc (.write .word 0x0C 0b0110) { ready [0] with cmdLoss := .seen })
        (fun t => (t.cmdFifo, t.cmdLoss)) = some ([], .none) ∧
      shown (hostAccess Config.transc (.write .word 0x0C 0b0100) { ready [0] with cmdLoss := .seen })
        (fun t => (t.cmdFifo, t.cmdLoss)) = some ([], .seen) ∧
      shown (hostAccess Config.transc (.write .word 0x0C 0b0010) { ready [0] with cmdLoss := .seen })
        (fun t => t.cmdLoss) = some .seen ∧
      shown (hostAccess Config.transc (.write .word 0x0C 0b0110) { ready [0] with cmdLoss := .unseen })
        (fun t => t.cmdLoss) = some .unseen ∧
      shown (hostAccess Config.transc (.write .word 0x0C 1) { ready [0] with cmdLoss := .unseen })
        (fun t => t.cmdLoss) = some .none := by decide +kernel

/-- V-ERR-1, through a step. -/
theorem test_step_illegal :
    shown (step (ready [0x1C000000])) (fun t => (t.errCause, t.errCmd, t.cp, t.halt, t.ip)) =
      some (some .illegalOp, 0x1C000000, 1, true, 0b000110) := by decide +kernel

/-! ### Witnesses: a state and operands that meet the hypotheses of each obligation, clause by clause -/

/-- EncodeDecode. -/
theorem test_witness_EncodeDecode :
    decode [0x38000004, 0, 0x3F000000, 7] = .ok (.vgenx 0 0 4 0 0x3F000000, [7]) := by decide

/-- LengthsAndWait: one word of two and two words of three wait; one word of one and three of three do not. -/
theorem test_witness_LengthsAndWait :
    ((ready [0x08000000]).script = [] ∧ (ready [0x08000000]).halt = false ∧
      (ready [0x08000000]).cmdFifo.length < lengthOfOp (opOf 0x08000000)) ∧
    ((ready [0x38000001, 0]).cmdFifo = 0x38000001 :: [0] ∧ (ready [0x38000001, 0]).cmdFifo.length < lengthOfOp (opOf 0x38000001)) ∧
    ((ready [0]).halt = false ∧ lengthOfOp (opOf 0) ≤ (ready [0]).cmdFifo.length) ∧
    lengthOfOp (opOf 0x38000001) ≤ (ready [0x38000001, 0, 0]).cmdFifo.length := by decide +kernel

/-- StepRunsCommand: the core's turn by an empty script and by the script, a host turn, a halted core, an empty FIFO. -/
theorem test_witness_StepRunsCommand :
    ((readyFor (.wreg 3 1 0 0)).halt = false ∧ (readyFor (.wreg 3 1 0 0)).script = [] ∧
      (readyFor (.wreg 3 1 0 0)).cmdFifo = encode (.wreg 3 1 0 0) ++ [0x24000000]) ∧
    (State.script { readyFor (.nop 0 0 0) with script := [.core] } = .core :: []) ∧
    (State.script { base with script := [.host (.read .word 0x1C), .core] } = .host (.read .word 0x1C) :: [.core]) ∧
    (State.halt { base with halt := true } = true ∧ base.script = [] ∧ base.cmdFifo = []) := by decide +kernel

/-- ErrorPathIsPrecise: every cause by some command, in a state that holds its words, with room for one response. -/
theorem test_witness_ErrorPathIsPrecise :
    (instrError (.nop 0 0 1) = some .reserved ∧ instrError (.wreg 0 0 0 0) = some .badCh ∧
      instrError (.rreg 1 3 0) = some .badSel ∧ instrError (.proc 0 0 0) = some .badN ∧
      instrError (.rder 1 0 5) = some .badField ∧ instrError (.wreg 1 4 0 9) = some .badValue) ∧
    ((readyRsp 63 (.rreg 1 3 0)).cmdFifo = encode (.rreg 1 3 0) ++ [0x24000000] ∧ responds (.rreg 1 3 0) = true ∧
      (readyRsp 63 (.rreg 1 3 0)).rspFifo.length < 64) ∧
    ((ready [0x1C000000]).script = [] ∧ (ready [0x1C000000]).halt = false ∧
      (ready [0x1C000000]).cmdFifo = 0x1C000000 :: []) := by decide +kernel

theorem test_witness_illegalOp :
    illegalOp (opOf 0x1C000000) ∧ illegalOp (opOf 0x3C000000) ∧ illegalOp (opOf 0x50000000) ∧ illegalOp (opOf 0xFC000000) ∧
      ¬ illegalOp (opOf 0x4C000000) := by
  unfold illegalOp
  decide +kernel

/-- IllegalOpcode: the word after the illegal one begins a command. -/
theorem test_witness_IllegalOpcode :
    (ready [0x1C000000, 0x24000000]).script = [] ∧ (ready [0x1C000000, 0x24000000]).halt = false ∧
      (ready [0x1C000000, 0x24000000]).cmdFifo = 0x1C000000 :: [0x24000000] ∧
      [0x24000000] = encode (.rngu 0 0 0) ++ [] ∧
      (readyFor (.wreg 3 1 0 0x1C000000)).cmdFifo = encode (.wreg 3 1 0 0x1C000000) ++ [0x24000000] := by decide +kernel

/-- ErrorsOfCommands: a command that raises an error, and a cause in a command's list. -/
theorem test_witness_ErrorsOfCommands :
    instrError (.wder 1 0x100 1 0) = some .badField ∧ Cause.badValue ∈ errorsOf (.wder 0 0 0 0) := by decide +kernel

/-- NopConsumesItsWord, SyncPushesTag: the words are there; each reserved field alone; a response FIFO with one place, and a full one. -/
theorem test_witness_NopConsumesItsWord_SyncPushesTag :
    ((readyFor (.nop 0 0 0)).cmdFifo = encode (.nop 0 0 0) ++ [0x24000000]) ∧
    ((1 : BitVec 2) ≠ 0 ∧ (1 : BitVec 12) ≠ 0) ∧
    ((readyRsp 63 (.sync 0 0 0xFFF)).rspFifo.length < 64 ∧
      (readyRsp 63 (.sync 0 0 0xFFF)).cmdFifo = encode (.sync 0 0 0xFFF) ++ [0x24000000]) ∧
    (responds (.sync 0 0 0) = true ∧ (readyRsp 64 (.sync 0 0 0)).rspFifo.length = 64 ∧
      (readyRsp 64 (.sync 0 0 0)).halt = false ∧
      (readyRsp 64 (.sync 0 0 0)).cmdFifo = encode (.sync 0 0 0) ++ [0x24000000]) := by decide +kernel

/-- WregStoresConverted, RegScope, RegConversions: a global and a channel register, the lowest and the highest number; NaN; E above its
range; reserved numbers. -/
theorem test_witness_WregStoresConverted :
    ((3 : BitVec 2) ≠ 0 ∧ Reg.ofSel 0x001 = some (.glob .inputMix) ∧ Reg.glob .inputMix ≠ .glob .fs ∧
      (Reg.glob .inputMix).type.accept 0x40000000 = some 0x3F800000 ∧
      (readyFor (.wreg 3 1 0 0x40000000)).cmdFifo = encode (.wreg 3 1 0 0x40000000) ++ [0x24000000]) ∧
    (Reg.ofSel 0x044 = some (.chan .seedPostdiffusion) ∧ Reg.chan .seedPostdiffusion ≠ .glob .fs ∧
      (Reg.chan .seedPostdiffusion).type.accept 0xFFFFFFFF = some 0xFFFFFFFF) ∧
    (Reg.ofSel 0x003 = none ∧ Reg.ofSel 0x045 = none) ∧
    (Reg.ofSel 0x001 = some (.glob .inputMix) ∧ (Reg.glob .inputMix).type = .float F32.zero F32.one ∧
      F32.isNaN ⟨0x7F800001⟩ = true ∧ (0x001 : BitVec 12) ≠ 0x000) ∧
    (Reg.ofSel 0x004 = some (.chan .bqxType) ∧ (Reg.chan .bqxType).type = .enum 8 ∧ 8 < (9 : Word).toNat ∧
      (Reg.chan .bqxType).type.accept 8 = some 8) := by decide +kernel

/-- RegConversions: a value of each type inside and beyond its range, and a row of the table at each end. -/
theorem test_witness_RegConversions :
    ((Reg.chan .bqxDb).type.accept 0xC53B8000 = some 0xC47A0000 ∧ (Reg.chan .lowcutEn).type.accept 0x80000000 = some 1 ∧
      (Reg.chan .tapCount).type.accept 0 = some 1 ∧ (Reg.chan .tapCount).type.accept 0xFFFFFFFF = some 256 ∧
      (Reg.chan .tapCount).type.accept 7 = some 7 ∧ (Reg.chan .dryOut).type.accept 0x3F000000 = some 0x3F000000) ∧
    (0x000, RegType.float ⟨0x45FA0000⟩ ⟨0x483B8000⟩) ∈ regTypes ∧ (0x044, RegType.unsigned 0 0xFFFFFFFF) ∈ regTypes ∧
      Reg.ofSel 0x044 = some (.chan .seedPostdiffusion) := by decide +kernel

/-- WriteEffects: BQX_TYPE at both ends of its range, and a register of each list. -/
theorem test_witness_WriteEffects :
    BqType.ofWord (ChanRegs.reset.set .bqxType 8).bqxType = some .hsh ∧ BqType.ofWord ChanRegs.reset.bqxType = some .lp6 ∧
      CReg.bqxQ ∈ [CReg.bqxType, .bqxHz, .bqxDb, .bqxQ] ∧ CReg.crossSeed ∈ [CReg.seedTap, .crossSeed] ∧
      CReg.lateTapPost ∉ [CReg.lowcutEn, .lowcutHz] := by decide

/-- RegScope: a selected and an unselected channel. -/
theorem test_witness_RegScope : maskOf .L &&& 0b01 ≠ 0 ∧ ¬ (maskOf .R &&& 0b01 ≠ 0) ∧ maskOf .R &&& 0b10 ≠ 0 := by decide

/-- EnableClears: the first and the last enable register. -/
theorem test_witness_EnableClears :
    CReg.lowcutEn ∈ enableRegs ∧ Reg.ofSel 0x010 = some (.chan .lowcutEn) ∧ CReg.eqLpEn ∈ enableRegs ∧
      Reg.ofSel 0x03A = some (.chan .eqLpEn) ∧
      (readyFor (.wreg 2 0x03A 0 5)).cmdFifo = encode (.wreg 2 0x03A 0 5) ++ [0x24000000] ∧
      CReg.lateTapPost ∉ enableRegs ∧ CReg.edifModEn ∉ enableRegs := by decide +kernel

/-- EnableClears, a global register: INTERP_EN. -/
theorem test_witness_EnableClears_global :
    Reg.ofSel 0x002 = some (.glob .interpEn) ∧ ∃ t, exec (.wreg 1 0x002 0 0) (readyFor (.wreg 1 0x002 0 0)) = .next t :=
  ⟨rfl, _, rfl⟩

/-- RregPushesStored: a global and a channel register; each bad mask; a reserved number. -/
theorem test_witness_RregPushesStored :
    (Reg.ofSel 0x000 = some (.glob .fs) ∧ (readyRsp 63 (.rreg (maskOf .R) 0 0)).rspFifo.length < 64 ∧
      (readyRsp 63 (.rreg (maskOf .R) 0 0)).cmdFifo = encode (.rreg (maskOf .R) 0 0) ++ [0x24000000]) ∧
    (Reg.ofSel 0x044 = some (.chan .seedPostdiffusion) ∧ (readyFor (.rreg (maskOf .L) 0x044 0)).rspFifo.length < 64) ∧
    ((0b11 : BitVec 2) = 0b00 ∨ (0b11 : BitVec 2) = 0b11) ∧ Reg.ofSel 0x045 = none ∧
    (readyRsp 64 (.rreg 1 0 1)).rspFifo.length = 64 := by decide +kernel

/-- SetfsDerivesAndClears: the rates at and beyond the ends of the range, infinity, and NaN. -/
theorem test_witness_SetfsDerivesAndClears :
    F32.isNaN ⟨0x45FA0000⟩ = false ∧ F32.isNaN ⟨0x483B8000⟩ = false ∧ F32.isNaN ⟨0x7F800000⟩ = false ∧
      F32.isNaN ⟨0x7F800001⟩ = true ∧
      (readyFor (.setfs 0 0 0 0x7F800000)).cmdFifo = encode (.setfs 0 0 0 0x7F800000) ++ [0x24000000] := by
  decide +kernel

/-- A channel with other derived values than the blank one, the entries of IDX and W below TAP_COUNT among them. -/
def otherChannel : Channel :=
  { Channel.blank with
    nomLine := F32.one, lineVec := [F32.one]
    mt := { Mt.blank with idx := 7 :: List.replicate 255 0, w := F32.half :: List.replicate 255 F32.zero } }

/-- SetfsFromRegisters: two different channels with the same registers, pointers and fixed parts. -/
theorem test_witness_SetfsFromRegisters :
    otherChannel.regs = Channel.blank.regs ∧ otherChannel.regs.bqxType.toNat ≤ 8 ∧
      otherChannel.pointers = Channel.blank.pointers ∧ otherChannel.fixed = Channel.blank.fixed ∧
      otherChannel.lineVec ≠ Channel.blank.lineVec ∧ otherChannel.mt.idx ≠ Channel.blank.mt.idx := by
  refine ⟨rfl, by decide, rfl, rfl, by decide, by decide⟩

/-- SetfsDerivesAndClears: a history field. -/
theorem test_witness_history : (FieldRef.biquad (.hsh 11) .y2).history = true := by decide

/-- ClearZeroesUnit: the first and the last unit, a number between units, and RNG. -/
theorem test_witness_ClearZeroesUnit :
    UnitRef.ofSel 0x000 = some (.onePole .hpc) ∧ UnitRef.ofSel 0x8BB = some (.apf (.line 11) 11) ∧
      UnitRef.ofSel 0x007 = none ∧
      (readyFor (.clear 3 0x8BB 0)).cmdFifo = encode (.clear 3 0x8BB 0) ++ [0x24000000] := by decide +kernel

/-- ClearedFields: a clear of PRE empties the buffer of PRE and not that of the multi-tap. -/
theorem test_witness_ClearedFields :
    (Channel.blank.clearUnit .mt).buffers .mt = [[]] ∧ (UnitRef.mdly .pre).empties .mt = false ∧
      (UnitRef.mdly .pre).empties (.mdly .pre) = true ∧ (UnitRef.line 3).empties (.apf (.line 3) 11) = true ∧
      (UnitRef.line 3).empties (.apf (.line 4) 11) = false ∧ UnitRef.chan.empties (.line 11) = true := by decide

/-- Rngseed and the draws. -/
theorem test_witness_DrawsPushSuccessor :
    (readyFor (.rngseed 0 0 0 9)).cmdFifo = encode (.rngseed 0 0 0 9) ++ [0x24000000] ∧
      (readyRsp 63 (.rngu 0 0 0)).rspFifo.length < 64 ∧
      (readyRsp 63 (.rngu 0 0 0)).cmdFifo = encode (.rngu 0 0 0) ++ [0x24000000] ∧
      (readyRsp 63 (.rngi 0 0 0)).cmdFifo = encode (.rngi 0 0 0) ++ [0x24000000] ∧
      (readyRsp 63 (.rngf 0 0 0)).cmdFifo = encode (.rngf 0 0 0) ++ [0x24000000] ∧
      (readyRsp 63 (.rngb 0 0 0)).cmdFifo = encode (.rngb 0 0 0) ++ [0x24000000] := by decide +kernel

/-- DrawRanges: V-RNG-7, and the draws at the end of the range. -/
theorem test_witness_DrawRanges :
    ((0x80000000 : Word) &&& 0x7FFFFFFF#32) = 0 ∧ 2147483584 ≤ ((0x7FFFFFC0 : Word) &&& 0x7FFFFFFF#32).toNat ∧
      ((0x7FFFFFBF : Word) &&& 0x7FFFFFFF#32).toNat = 2147483583 := by decide +kernel

/-- GenerateValues and GenerateXValues: an index in range, and a shorter vector. -/
theorem test_witness_Generate :
    (generate 0 2)[1]? = some ⟨0x3BAD271B⟩ ∧ (generate (0 ^^^ 0xFFFFFFFF#32) 2)[1]? = some ⟨0x3F0231F7⟩ ∧ 1 ≤ 2 := by
  decide +kernel

/-- GenerateValues: the last tap's three entries and the last entry a line uses are there. -/
theorem test_witness_vector_entries :
    ((generateX 0 768 F32.zero)[255]?.isSome && (generateX 0 768 F32.zero)[256 + 255]?.isSome &&
      (generateX 0 768 F32.zero)[512 + 255]?.isSome && (generateX 0 36 F32.one)[24 + 11]?.isSome) = true := by
  decide +kernel

/-- Vgen and Vgenx: the ends of the count range, the counts beyond them, NaN. -/
theorem test_witness_VgenFillsVec :
    (1 ≤ (1 : BitVec 12).toNat ∧ (1024 : BitVec 12).toNat ≤ 1024) ∧
    ((0 : BitVec 12).toNat = 0 ∧ 1024 < (1025 : BitVec 12).toNat) ∧
    ((readyFor (.vgen 0 0 1024 5)).cmdFifo = encode (.vgen 0 0 1024 5) ++ [0x24000000] ∧
      (readyFor (.vgenx 0 0 1 5 0x40F00000)).cmdFifo = encode (.vgenx 0 0 1 5 0x40F00000) ++ [0x24000000]) ∧
    (F32.isNaN ⟨0x40F00000⟩ = false ∧ F32.isNaN ⟨0x7FC00000⟩ = true) := by decide +kernel

/-- BqrespPushesResponse: the first and the last biquad, a unit that is none, NaN. -/
theorem test_witness_BqrespPushesResponse :
    (UnitRef.ofSel 0x005 = some (.biquad .bqx) ∧ UnitRef.ofSel 0x1B4 = some (.biquad (.hsh 11)) ∧
      F32.isNaN ⟨0⟩ = false ∧ (readyRsp 63 (.bqresp (maskOf .R) 0x1B4 0 0)).rspFifo.length < 64 ∧
      (readyRsp 63 (.bqresp (maskOf .R) 0x1B4 0 0)).cmdFifo =
        encode (.bqresp (maskOf .R) 0x1B4 0 0) ++ [0x24000000]) ∧
    (F32.isNaN ⟨0x7FC00000⟩ = true ∧ UnitRef.ofSel 0x000 = some (.onePole .hpc)) := by decide +kernel

theorem test_witness_BqrespPushesResponse_badSel : ∀ u, UnitRef.ofSel 0x000 ≠ some (.biquad u) := by
  intro u h
  have h0 : UnitRef.ofSel 0x000 = some (.onePole .hpc) := by decide
  rw [h0] at h
  cases h

/-- The state of the Proc and Uproc witnesses: n written words in both inputs, and the words of the command. -/
def withWords (n : Nat) (i : Instr) : State :=
  withInput (List.replicate n F32.one) (List.replicate n F32.half) (readyFor i)

theorem withWords_cmdFifo (n : Nat) (i : Instr) : (withWords n i).cmdFifo = encode i ++ [0x24000000] :=
  (State.storeFrom_cmdFifo _ _ _ _).trans (State.storeFrom_cmdFifo _ _ _ _)

theorem withWords_words (n : Nat) (i : Instr) (hn : n ≤ 1024) {k : Nat} (h : k < n) :
    (Region.inL.addr k ∈ (withWords n i).written ∧
      (withWords n i).mem.readWord (Region.inL.addr k) = some F32.one.bits) ∧
    (Region.inR.addr k ∈ (withWords n i).written ∧
      (withWords n i).mem.readWord (Region.inR.addr k) = some F32.half.bits) := by
  have hL := State.storeFrom_word .inL 0 (List.replicate n F32.one) (readyFor i) (j := k) (v := F32.one) (by simp [h])
  have hR := State.storeFrom_word .inR 0 (List.replicate n F32.half)
    (State.storeFrom .inL 0 (List.replicate n F32.one) (readyFor i)) (j := k) (v := F32.half) (by simp [h])
  have hm := (State.storeFrom_written .inL 0 (List.replicate n F32.one) (readyFor i) (Region.inL.addr k)).2
    (.inr ⟨k, by simpa using h, by simp⟩)
  rw [Nat.zero_add] at hL hR
  refine ⟨⟨(State.storeFrom_written _ _ _ _ _).2 (.inl hm), ?_⟩, (State.storeFrom_written _ _ _ _ _).2
    (.inr ⟨k, by simpa using h, by simp⟩), hR⟩
  refine (State.storeFrom_readWord _ _ _ _ (.inl ?_)).trans hL
  simp only [Region.addr, Region.base]
  omega

/-- ProcRunsBothChannels: blocks of 1 and of 1024 samples, both inputs written and readable. -/
theorem test_witness_ProcRunsBothChannels (n : Nat) (hn : n = 1 ∨ n = 1024) :
    (∀ k < n, 0x10000 + 4 * k ∈ (withWords n (.proc 0 0 (BitVec.ofNat 12 n))).written ∧
      (withWords n (.proc 0 0 (BitVec.ofNat 12 n))).wordAt (0x10000 + 4 * k) = some F32.one.bits) ∧
    (∀ k < n, 0x14000 + 4 * k ∈ (withWords n (.proc 0 0 (BitVec.ofNat 12 n))).written ∧
      (withWords n (.proc 0 0 (BitVec.ofNat 12 n))).wordAt (0x14000 + 4 * k) = some F32.half.bits) ∧
    (withWords n (.proc 0 0 (BitVec.ofNat 12 n))).cmdFifo =
      encode (.proc 0 0 (BitVec.ofNat 12 n)) ++ [0x24000000] ∧
    1 ≤ (BitVec.ofNat 12 n).toNat ∧ (BitVec.ofNat 12 n).toNat ≤ 1024 ∧ (BitVec.ofNat 12 n).toNat = n := by
  have hl : n ≤ 1024 := by omega
  refine ⟨fun k hk => (withWords_words n _ hl hk).1, fun k hk => (withWords_words n _ hl hk).2, withWords_cmdFifo _ _, ?_⟩
  rcases hn with rfl | rfl <;> decide

/-- ProcRunsBothChannels: an unwritten word of each input, at the end of the block. -/
theorem test_witness_ProcRunsBothChannels_uninit :
    (1024 : BitVec 12).toNat ≤ 1024 ∧ 1023 < (1024 : BitVec 12).toNat ∧ 0x10000 + 4 * 1023 ∉ base.written ∧
      0x14000 + 4 * 1023 ∉ base.written ∧ (1025 : BitVec 12).toNat ≠ 0 ∧ 1024 < (1025 : BitVec 12).toNat := by
  decide +kernel

/-- UprocRunsOneUnit: a block of 1024 samples of channel R and of 1 sample of channel L, through the last and the first unit. -/
theorem test_witness_UprocRunsOneUnit :
    (∀ j < 1024, inBase .R + 4 * j ∈ (withWords 1024 (.uproc (maskOf .R) 0x8BB 1024)).written ∧
      (withWords 1024 (.uproc (maskOf .R) 0x8BB 1024)).wordAt (inBase .R + 4 * j) = some F32.half.bits) ∧
    (∀ j < 1, inBase .L + 4 * j ∈ (withWords 1 (.uproc (maskOf .L) 0 1)).written ∧
      (withWords 1 (.uproc (maskOf .L) 0 1)).wordAt (inBase .L + 4 * j) = some F32.one.bits) ∧
    (withWords 1024 (.uproc (maskOf .R) 0x8BB 1024)).cmdFifo =
      encode (.uproc (maskOf .R) 0x8BB 1024) ++ [0x24000000] ∧
    UnitRef.ofSel 0x8BB = some (.apf (.line 11) 11) ∧ UnitRef.ofSel 0 = some (.onePole .hpc) ∧
      UnitRef.ofSel 0x01C = none ∧ 1 ≤ (1024 : BitVec 12).toNat ∧ (1024 : BitVec 12).toNat ≤ 1024 ∧
      inBase .L + 4 * 1023 ∉ base.written := by
  refine ⟨fun j hj => (withWords_words 1024 _ (by omega) hj).2, fun j hj => (withWords_words 1 _ (by omega) hj).1,
    withWords_cmdFifo _ _, ?_⟩
  decide +kernel

/-- RderPushesField: a field of the last unit, RNG, an undefined number, an undefined field, bad masks. -/
theorem test_witness_RderPushesField :
    (UnitRef.ofSel 0x8BB = some (.apf (.line 11) 11) ∧
      FieldRef.ofN (.apf (.line 11) 11) 12 = some (.apf (.line 11) 11 .modEn) ∧
      (readyRsp 63 (.rder (maskOf .R) 0x8BB 12)).rspFifo.length < 64 ∧
      (readyRsp 63 (.rder (maskOf .R) 0x8BB 12)).cmdFifo = encode (.rder (maskOf .R) 0x8BB 12) ++ [0x24000000]) ∧
    ((readyRsp 63 (.rder 0 0xF00 0)).rspFifo.length < 64 ∧
      (readyRsp 63 (.rder 0 0xF00 0)).cmdFifo = encode (.rder 0 0xF00 0) ++ [0x24000000]) ∧
    ((0x007 : BitVec 12) ≠ 0xF00 ∧ UnitRef.ofSel 0x007 = none) ∧
    (FieldRef.ofN (.apf (.line 11) 11) 13 = none ∧ FieldRef.ofN .mt 0x500 = none ∧
      FieldRef.ofN .mt 0x4FF = some (.mt (.idx 255)) ∧ (1 : BitVec 12) ≠ 0) ∧
    Channel.blank.mt.count ≤ (1 : Fin 256).val := by decide +kernel

/-- A channel whose vectors are filled, with different values. -/
def filled : Channel :=
  { Channel.blank with
    ed := { Diff.blank with vec := List.replicate 36 F32.one }
    lineVec := List.replicate 36 F32.half
    mt := { Mt.blank with
      gain := List.replicate 256 F32.one, pos := List.replicate 256 F32.half, idx := 7 :: List.replicate 255 0
      w := F32.two :: List.replicate 255 F32.zero } }

/-- RderPushesField: the last entry of each vector, of IDX and W the last below COUNT; the hypotheses on units are equations. -/
theorem test_witness_RderPushesField_fields :
    (filled.ed.vec[(35 : Fin 36).val]? = some F32.one ∧
      filled.lineVec[(35 : Fin 36).val]? = some F32.half) ∧
    (filled.mt.gain[(255 : Fin 256).val]? = some F32.one ∧
      filled.mt.pos[(255 : Fin 256).val]? = some F32.half) ∧
    ((0 : Fin 256).val < filled.mt.count ∧ filled.mt.w[(0 : Fin 256).val]? = some F32.two ∧
      filled.mt.idx[(0 : Fin 256).val]? = some 7) ∧
    (filled.ed.stages.get 11).tap = Tap.blank ∧ (filled.lines.get 11).mdly = Tap.blank := by decide +kernel

/-- WderWritesField: an F field, a U field, a read-only field, an undefined one, NaN in both kinds of float fields. -/
theorem test_witness_WderWritesField :
    (UnitRef.ofSel 0x100 = some (.line 0) ∧ FieldRef.ofN (.line 0) 0 = some (.line 0 .gain) ∧
      (FieldRef.line 0 .gain).writeType.accept 0x3F800000 = .ok 0x3F7FFFFF ∧
      (readyFor (.wder 3 0x100 0 0x3F800000)).cmdFifo = encode (.wder 3 0x100 0 0x3F800000) ++ [0x24000000]) ∧
    ((FieldRef.mdly .pre .sd).writeType.accept 0 = .ok 1 ∧
      (FieldRef.mdly .pre .sd).writeType.accept 0xFFFFFFFF = .ok 191998) ∧
    (readyFor (.wder 0 0xF00 0 9)).cmdFifo = encode (.wder 0 0xF00 0 9) ++ [0x24000000] ∧
    ((FieldRef.line 0 .fbLevel).writeType = .readOnly ∧ FieldRef.ofN (.line 0) 1 = some (.line 0 .fbLevel) ∧
      FieldRef.ofN (.line 0) 3 = none) ∧
    (F32.isNaN ⟨0x7FC00000⟩ = true ∧ (FieldRef.line 0 .gain).writeType = .float F32.zero F32.belowOne ∧
      UnitRef.ofSel 0x000 = some (.onePole .hpc) ∧ FieldRef.ofN (.onePole .hpc) 4 = some (.onePole .hpc .y) ∧
      (FieldRef.onePole .hpc .y).writeType = .anyFloat) := by decide +kernel

/-- FieldWriteFrame: a write of SD does not refresh PHASE of the same tap, nor DA of another. -/
theorem test_witness_FieldWriteFrame :
    (FieldRef.mdly .pre .sd).writeType.accept 7 = .ok 7 ∧ FieldRef.mdly .pre .phase ≠ .mdly .pre .sd ∧
      (FieldRef.mdly .pre .sd).refreshes (.mdly .pre .phase) = false ∧
      (FieldRef.mdly .pre .sd).refreshes (.mdly (.line 0) .da) = false ∧
      (FieldRef.mdly .pre .sd).refreshes (.mdly .pre .da) = true := by decide +kernel

/-- FifoQueue: a FIFO that wraps, a push that fills it, and a line with a full block in its FIFO. -/
theorem test_witness_FifoQueue :
    (2047 < 2048 ∧ Buf.wf [(0, F32.one), (2047, F32.half)] = true ∧
      (⟨[(0, F32.one), (2047, F32.half)], 2047, 2⟩ : Fifo).level + [F32.one].length ≤ 2048) ∧
    (⟨[], 0, 1024⟩ : Fifo).level ≤ 1024 ∧ (List.replicate 1024 F32.one).length ≤ 1024 := by decide +kernel

/-- UnitSteps: stages of both modes and a plain delay at the ends of their ranges, between updates and at one; a diffuser
with 12 active stages and one with a frozen one; a multi-tap. -/
theorem test_witness_UnitSteps :
    (Tap.inRange 19202 { Tap.blank with widx := 19201, sd := 19200 } = true ∧ Buf.wf Tap.blank.buf = true ∧
      Apf.modEn { Apf.blank with modEn := false } = false ∧ Apf.blank.modEn = true) ∧
    (Tap.inRange 19202 { Tap.blank with widx := 19201, da := 19200, db := 19201, counter := 8 } = true ∧
      Tap.inRange 192000 { Tap.blank with widx := 191999, da := 191998, db := 191999, counter := 7 } = true ∧
      Tap.counter { Tap.blank with counter := 7 } < 8 ∧ 8 ≤ Tap.counter { Tap.blank with counter := 8 }) ∧
    (Diff.count { Diff.blank with count := 12 } ≤ 12 ∧ (11 : Fin 12).val < Diff.count { Diff.blank with count := 12 } ∧
      Diff.blank.count ≤ (1 : Fin 12).val) ∧
    (Buf.wf Mt.blank.buf = true ∧ Mt.blank.widx < 192000) := by decide +kernel

/-- A channel whose lines hold 12 samples in their FIFOs. -/
def filledChannel : Channel :=
  { Channel.blank with lines := Channel.blank.lines.map (fun l => { l with fb := { cells := [], rd := 2047, level := 12 } }) }

/-- ChunkingInvariance: 12 samples as 7 and 5 (95_test_vectors.md S18), with every FIFO at LEVEL 12. -/
theorem test_witness_ChunkingInvariance : ∀ l : Fin 12, l.val < filledChannel.regs.lateLineCount.toNat →
    (List.replicate 7 F32.one).length + (List.replicate 5 F32.one).length ≤ (filledChannel.lines.get l).fb.level ∧
      (filledChannel.lines.get l).fb.level ≤ 2048 ∧ (filledChannel.lines.get l).fb.rd < 2048 ∧
      (filledChannel.lines.get l).fb.cells.wf = true := by decide +kernel

/-- FrozenUnits: at reset the enables are 0 and the lines 1 to 11 are not run. -/
theorem test_witness_FrozenUnits :
    Channel.blank.regs.lowcutEn = false ∧ Channel.blank.regs.highcutEn = false ∧ Channel.blank.regs.tapEn = false ∧
      Channel.blank.regs.edifEn = false ∧ Channel.blank.regs.lateLineCount.toNat ≤ (1 : Fin 12).val ∧
      (0 : Fin 12).val < Channel.blank.regs.lateLineCount.toNat ∧ [F32.one][0]? = some F32.one := by decide +kernel

/-- FrozenUnits: a block and its next channel. -/
theorem test_witness_FrozenUnits_block : ∃ d out, Channel.blank.block Config.transc true [F32.one] = (d, out) := ⟨_, _, rfl⟩

/-- BusErrorOnlySetsBit: each kind, at the edges of the mapped ranges. -/
theorem test_witness_BusErrorOnlySetsBit :
    isBusError .word 0x00002 ∧ isBusError .byte 0x00000 ∧ isBusError .word 0x00038 ∧ isBusError .word 0x0FFFC ∧
      isBusError .word 0x11000 ∧ isBusError .word 0x21000 ∧ ¬ isBusError .word 0x00034 ∧ ¬ isBusError .word 0x10FFC ∧
      ¬ isBusError .word 0x20000 ∧ ¬ isBusError .word 0x20FFC := by
  simp [isBusError, mappedAddr]

/-- ReadsArePure: a read of an OUT word, one of STATUS, and one of IP that is the check for a dropped word. -/
theorem test_witness_ReadsArePure :
    ¬ isBusError .word 0x18000 ∧ (0x18000 : BitVec 18).toNat ≠ 0x1C ∧
      (shown (hostAccess Config.transc (.read .word 0x18000) base) (fun t => t.draws)) = some 1 ∧
      ¬ isBusError .word 0x08 ∧
      (shown (hostAccess Config.transc (.read .word 0x08) base) (fun t => t.hostReads)) = some [0] ∧
      ¬ isBusError .word 0x14 ∧
      (shown (hostAccess Config.transc (.read .word 0x14) { base with cmdLoss := .unseen, ip := 0b001000 })
        (fun t => t.cmdLoss)) = some .seen :=
  ⟨by simp [isBusError, mappedAddr], by decide, by decide +kernel, by simp [isBusError, mappedAddr], by decide +kernel,
    by simp [isBusError, mappedAddr], by decide +kernel⟩

/-- PortsQueueWords: a command FIFO with one place and a full one, a response FIFO with a word and an empty one, no command
word lost and one lost. -/
theorem test_witness_PortsQueueWords :
    (ready (List.replicate 255 0)).cmdFifo.length < 256 ∧ (ready (List.replicate 256 0)).cmdFifo.length = 256 ∧
      ((readyRsp 1 (.nop 0 0 0)).rspFifo = 0 :: [] ∧ (readyRsp 1 (.nop 0 0 0)).cmdLost = false) ∧
      (State.rspFifo { readyRsp 1 (.nop 0 0 0) with cmdLoss := .unseen } = 0 :: [] ∧
        State.cmdLost { readyRsp 1 (.nop 0 0 0) with cmdLoss := .unseen } = true) ∧
      (base.rspFifo = [] ∧ base.cmdLost = false) ∧
      (State.rspFifo { base with cmdLoss := .seen } = [] ∧ State.cmdLost { base with cmdLoss := .seen } = true) := by
  decide +kernel

/-- HostRegisters: no word lost and a word lost; the first and the last of the registers that then read as draws; IRQ
high, by the lowest and by the highest bit, and low. -/
theorem test_witness_HostRegisters :
    base.cmdLost = false ∧ State.cmdLost { base with cmdLoss := .unseen } = true ∧
      (0x20 : BitVec 18).toNat ∈ [0x20, 0x24, 0x28, 0x2C, 0x30, 0x34] ∧
      (0x34 : BitVec 18).toNat ∈ [0x20, 0x24, 0x28, 0x2C, 0x30, 0x34] ∧
      State.irq { base with ie := 0b000001, ip := 0b100001 } = true ∧
      State.irq { base with ie := 0b100000, ip := 0b100001 } = true ∧
      State.irq { base with ie := 0b011110, ip := 0b100001 } = false ∧
      (0x34 : BitVec 18).toNat ∈ [0x00, 0x04, 0x08, 0x1C, 0x20, 0x24, 0x28, 0x2C, 0x30, 0x34] := by decide

/-- StatusBits, and the premise of the invariants: FIFOs at their depths. -/
theorem test_witness_StatusBits :
    State.fifosBounded { ready (List.replicate 256 0) with rspFifo := List.replicate 64 0 } = true ∧ (7 : Nat) ≤ 7 := by
  decide +kernel

/-- SetfsDerivesAndClears: the first and the last response type a BQX_TYPE names. -/
theorem test_witness_bqType : BqType.ofWord 0 = some .lp6 ∧ BqType.ofWord 8 = some .hsh := by decide

/-- 46_diagnostic.md R504: a G that a WDER wrote into a stage is rewritten by the diffuser's next derive, and by no other
write. -/
theorem test_derive_rewrites_g :
    (((Channel.blank.writeField (.apf .ed 11 .g) 0x3F000000).writeReg Transc.reference ⟨0x473B8000⟩ .L .edifCount 2).apf
        .ed 11).g = ⟨0x3F000000⟩ ∧
      (((Channel.blank.writeField (.apf .ed 11 .g) 0x3F000000).writeReg Transc.reference ⟨0x473B8000⟩ .L .edifDelayMs
        0x41200000).apf .ed 11).g = ⟨0x00000000⟩ := by decide +kernel

/-- RefreshBounds: the two buffer lengths, and taps that meet the premises of its examples. -/
theorem test_witness_RefreshBounds :
    (19202 = 19202 ∨ 19202 = 192000) ∧ (192000 = 19202 ∨ 192000 = 192000) ∧
      (∃ t : Tap, t.sd = 3 ∧ t.amt = ⟨0x40A00000⟩ ∧ t.mod = ⟨0xBF800000⟩) ∧
      ∃ t : Tap, t.sd = 10 ∧ t.amt = ⟨0x40100000⟩ ∧ t.mod = ⟨0x3F000000⟩ :=
  ⟨by decide, by decide, ⟨{ Tap.blank with sd := 3, amt := ⟨0x40A00000⟩, mod := ⟨0xBF800000⟩ }, rfl, rfl, rfl⟩,
    ⟨{ Tap.blank with sd := 10, amt := ⟨0x40100000⟩, mod := ⟨0x3F000000⟩ }, rfl, rfl, rfl⟩⟩

/-- CtrlResetsFlushesClears: soft reset set and clear. -/
theorem test_witness_CtrlResetsFlushesClears : (1 : Word).getLsbD 0 = true ∧ (0xE : Word).getLsbD 0 = false := by decide

/-- OwnedAccessIsHazard: the owners behind another command, first and last word of the largest block. -/
theorem test_witness_OwnedAccessIsHazard :
    ((ready ([.wreg 3 1 0 0].flatMap encode ++ encode (.proc 0 0 1024) ++ [])).cmdFifo =
      [.wreg 3 1 0 0].flatMap encode ++ encode (.proc 0 0 1024) ++ []) ∧
    ((1024 : BitVec 12).toNat ≤ 1024 ∧ 0 < (1024 : BitVec 12).toNat ∧ 1023 < (1024 : BitVec 12).toNat) ∧
    (ready ([].flatMap encode ++ encode (.uproc (maskOf .R) 0x006 1) ++ [7])).cmdFifo =
      [].flatMap encode ++ encode (.uproc (maskOf .R) 0x006 1) ++ [7] ∧
    ((ready ([.nop 0 0 0].flatMap encode ++ encode (.vgen 0 0 1024 5) ++ [])).cmdFifo =
        [.nop 0 0 0].flatMap encode ++ encode (.vgen 0 0 1024 5) ++ [] ∧
      (ready ([.nop 0 0 0].flatMap encode ++ encode (.vgenx 0 0 1 5 6) ++ [])).cmdFifo =
        [.nop 0 0 0].flatMap encode ++ encode (.vgenx 0 0 1 5 6) ++ []) ∧
    ((∃ seed, Instr.vgen 0 0 1024 5 = .vgen 0 0 1024 seed) ∧ ∃ seed cs, Instr.vgenx 0 0 1 5 6 = .vgenx 0 0 1 seed cs) :=
  ⟨by decide, by decide, by decide, ⟨by decide, by decide⟩, ⟨5, rfl⟩, 5, 6, rfl⟩

/-- AllowedAccessCompletes: a PROC of 4 words, an illegal word and a VGENX that still misses a word are pending; the fifth
word of OUT_L, and the first word of VEC beyond the count, are nobody's. -/
theorem test_witness_AllowedAccessCompletes :
    (ready [0x18000004, 0x1C000000, 0x38000002, 7]).cmdFifo =
      [[0x18000004], [0x1C000000]].flatten ++ (encode (.vgenx 0 0 2 7 0)).take 2 ∧
    (∀ p ∈ [[0x18000004], [0x1C000000]],
      (∃ i ∈ [Instr.proc 0 0 4], p = encode i) ∨ ∃ w, illegalOp (opOf w) ∧ p = [w]) ∧
    (∀ i ∈ [Instr.vgenx 0 0 2 7 0, .proc 0 0 4], ¬ writesWord i 0x18010 ∧ ¬ readsWord i 0x18010) ∧
    (∀ i ∈ [Instr.vgenx 0 0 2 7 0, .proc 0 0 4], ¬ writesWord i 0x20008 ∧ ¬ readsWord i 0x20008) ∧
    (0x18010 : BitVec 18).toNat = 0x18010 := by
  refine ⟨by decide, ?_, ?_, ?_, rfl⟩
  · intro p hp
    simp only [List.mem_cons, List.not_mem_nil, or_false] at hp
    rcases hp with rfl | rfl
    · exact .inl ⟨.proc 0 0 4, by simp, by decide⟩
    · exact .inr ⟨0x1C000000, .inl (by decide), rfl⟩
  all_goals
    intro i hi
    simp only [List.mem_cons, List.not_mem_nil, or_false] at hi
    rcases hi with rfl | rfl <;> simp [writesWord, readsWord, exists_chan, inBase, outBase] <;> grind

/-- HazardFree and WriteThenRead: no command pending; the first and the last word of a region. -/
theorem test_witness_WriteThenRead :
    base.cmdFifo = [] ∧ (0x20FFC : BitVec 18).toNat % 4 = 0 ∧ mappedAddr (0x20FFC : BitVec 18).toNat ∧
      0x10000 ≤ (0x20FFC : BitVec 18).toNat ∧ mappedAddr (0x10000 : BitVec 18).toNat ∧ (1023 : Nat) < 1024 ∧
      (0x0FFFF : BitVec 18).toNat < 0x10000 := by
  unfold mappedAddr
  decide +kernel

/-- WriteThenRead, the reads: an IN word, an OUT word the core has written, one it has not, and one after a dropped word. -/
theorem test_witness_WriteThenRead_reads :
    ((base.storeWord 0x10000 7).wordAt 0x10000 = some 7 ∧ (0x10000 : BitVec 18).toNat < 0x18000) ∧
    ((base.storeWord 0x18000 7).wordAt (0x18000 : BitVec 18).toNat = some 7 ∧
      (0x18000 : BitVec 18).toNat ∈ (base.storeWord 0x18000 7).written ∧ (base.storeWord 0x18000 7).cmdLost = false) ∧
    (base.wordAt 0x10000 = none ∧ 0x18000 ≤ (0x18000 : BitVec 18).toNat ∧ (0x18000 : BitVec 18).toNat ∉ base.written ∧
      State.cmdLost { base with cmdLoss := .unseen } = true) := by decide +kernel

/-- MemoryFrame, RegisterFrame, StateFrame: a command that stores nothing and the storing ones end in a next state. -/
theorem test_witness_frames :
    (stores (.nop 0 0 0) = false ∧ exec (.nop 0 0 0) (ready [0]) = .next ((ready [0]).consume 1)) ∧
    (∃ t, exec (.proc 0 0 1) (withInput [F32.one] [F32.one] (readyFor (.proc 0 0 1))) = .next t) ∧
    (∃ t, exec (.uproc (maskOf .L) 0 1) (withInput [F32.one] [] (readyFor (.uproc 1 0 1))) = .next t) ∧
    (∃ t, exec (.vgen 0 0 1 5) (readyFor (.vgen 0 0 1 5)) = .next t) ∧
    (∃ t, exec (.vgenx 0 0 1 5 0) (readyFor (.vgenx 0 0 1 5 0)) = .next t) ∧
    (maskOf .R &&& 0b01 = 0 ∧ ∃ t, exec (.clear 0b01 0 0) (readyFor (.clear 0b01 0 0)) = .next t) :=
  ⟨⟨rfl, rfl⟩, ⟨_, rfl⟩, ⟨_, rfl⟩, ⟨_, rfl⟩, ⟨_, rfl⟩, by decide, _, rfl⟩

/-- CpCountsWords, PendingStays: a core step that runs a command, a host access that keeps every IP bit. -/
theorem test_witness_steps :
    (∃ t, coreStep (ready [0]) = .next t) ∧ (∃ t, hostAccess Config.transc (.read .word 0x02) base = .next t) ∧
      (∀ w, HostAccess.read .word 0x02 ≠ .write .word 0x14 w) ∧ ∀ w, HostAccess.read .word 0x02 ≠ .write .word 0x0C w :=
  ⟨⟨_, rfl⟩, ⟨_, rfl⟩, by simp, by simp⟩

/-- The premises of the invariants at the test state, and a step from it. -/
theorem test_witness_invariants :
    ((ready [0]).memWf = true ∧ (ready [0]).fifosBounded = true ∧ (ready [0]).errorRecord = true ∧
      (ready [0]).regsLegal = true) ∧ ∃ t, step (ready [0]) = .next t :=
  ⟨by decide +kernel, _, rfl⟩

theorem test_witness_unitsSound : (ready [0]).unitsSound = true ∧ (ready [0]).countsInRange = true := by decide +kernel

end Sys2Proof.Tests
end

section
/-!
Rounding as an order-preserving operation (00_scope.md R9-R12): the encoding `roundBits` of a rounded magnitude grows
with the magnitude and gives every representable magnitude back. On the values from +0 up to an infinity, whose
order is that of their encodings, addition, multiplication and division by a fixed value keep order.
-/

namespace Sys2Proof

/-! ### The rounded quotient -/

/-- A multiple of the unit is not rounded. -/
@[simp] theorem roundShift_mul (k sh : Nat) : roundShift (k * 2 ^ sh) sh = k := by
  simp [roundShift]

/-- Quotient and remainder grow in lexicographic order. -/
theorem div_mod_lex {n m : Nat} (h : n ≤ m) (d : Nat) : n / d < m / d ∨ n / d = m / d ∧ n % d ≤ m % d := by
  refine (Nat.div_le_div_right h).lt_or_eq.imp_right fun heq => ⟨heq, ?_⟩
  have hn := Nat.div_add_mod n d
  have hm := Nat.div_add_mod m d
  rw [heq] at hn
  omega

/-- Rounding to a fixed unit keeps order. -/
theorem roundShift_mono {n m : Nat} (h : n ≤ m) (sh : Nat) : roundShift n sh ≤ roundShift m sh := by
  simp only [roundShift]
  rcases div_mod_lex h (2 ^ sh) with hlt | ⟨heq, hmod⟩
  · split_ifs <;> omega
  · rw [heq]
    split_ifs <;> omega

/-- A quotient with a sticky bit for its remainder keeps order. -/
theorem stickyQuotient_mono {n m : Nat} (h : n ≤ m) (d : Nat) :
    2 * (n / d) + (if n % d = 0 then 0 else 1) ≤ 2 * (m / d) + if m % d = 0 then 0 else 1 := by
  rcases div_mod_lex h d with hlt | ⟨heq, hmod⟩
  · split_ifs <;> omega
  · rw [heq]
    split_ifs <;> omega

/-! ### The encoding of a rounded magnitude -/

/-- The exponent and fraction fields, as one number, that `F32.round` gives n/2^s units. -/
def roundBits (n s : Nat) : Nat :=
  min ((max s (n.log2 - 23) - s) * 2 ^ 23 + roundShift n (max s (n.log2 - 23))) 0x7F800000

/-- `F32.round` encodes the sign and `roundBits`. -/
theorem F32.round_eq_pack (neg : Bool) (n s : Nat) : F32.round neg n s = F32.pack neg (roundBits n s) := rfl

theorem roundBits_le_inf (n s : Nat) : roundBits n s ≤ 0x7F800000 := Nat.min_le_right _ _

@[simp] theorem roundBits_zero (s : Nat) : roundBits 0 s = 0 := by
  simp [roundBits, roundShift]

/-- A larger magnitude has no smaller encoding. Where the two have different units, a whole binade of encodings lies
between them. -/
theorem roundBits_mono {n m : Nat} (h : n ≤ m) (s : Nat) : roundBits n s ≤ roundBits m s := by
  have hlog : n.log2 ≤ m.log2 := by
    rw [Nat.log2_eq_log_two, Nat.log2_eq_log_two]
    exact Nat.log_mono_right h
  unfold roundBits
  generalize hsn : max s (n.log2 - 23) = sn
  generalize hsm : max s (m.log2 - 23) = sm
  refine min_le_min_right _ ?_
  rcases (show sn ≤ sm by omega).lt_or_eq with hlt | heq
  · have hn : roundShift n sn ≤ 2 ^ 24 := by
      have hlt : n < 2 ^ (n.log2 + 1) := Nat.lt_log2_self
      have hle : n ≤ 2 ^ 24 * 2 ^ sn := by
        rw [← pow_add]
        exact hlt.le.trans (Nat.pow_le_pow_right (by norm_num) (by omega))
      simpa using roundShift_mono hle sn
    have hm : 2 ^ 23 ≤ roundShift m sm := by
      have hpos : m ≠ 0 := by rintro rfl; simp at hsm; omega
      have hle : 2 ^ 23 * 2 ^ sm ≤ m := by
        rw [← pow_add]
        exact (Nat.pow_le_pow_right (by norm_num) (by omega)).trans (Nat.log2_self_le hpos)
      simpa using roundShift_mono hle sm
    omega
  · rw [heq]
    exact Nat.add_le_add_left (roundShift_mono h sm) _

/-! ### The fields of an encoding -/

theorem F32.sign_eq (x : F32) : x.sign = decide (2 ^ 31 ≤ x.bits.toNat) := by
  unfold F32.sign
  rw [← BitVec.msb_eq_getLsbD_last, BitVec.msb_eq_decide]

theorem F32.expo_eq (x : F32) : x.expo = x.bits.toNat / 2 ^ 23 % 256 := by
  simp [F32.expo, Nat.shiftRight_eq_div_pow]

theorem F32.frac_eq (x : F32) : x.frac = x.bits.toNat % 2 ^ 23 := by
  simp [F32.frac]

/-- A number below 2^31 as the fields of a positive value. -/
theorem F32.pack_false_toNat {b : Nat} (h : b < 2 ^ 31) : (F32.pack false b).bits.toNat = b := by
  simp only [F32.pack, Bool.false_eq_true, if_false, BitVec.toNat_ofNat]
  omega

theorem F32.ext_toNat {x y : F32} (h : x.bits.toNat = y.bits.toNat) : x = y := by
  cases x; cases y
  simpa using BitVec.eq_of_toNat_eq h

/-! ### Values from +0 up -/

/-- A finite value with a clear sign bit: +0 or a positive number. -/
abbrev F32.Plain (x : F32) : Prop := x.bits.toNat < 0x7F800000

namespace F32

variable {x y a b : F32}

theorem isNaN_of_isFinite (h : x.isFinite = true) : x.isNaN = false := by
  simp only [isFinite, bne_iff_ne] at h
  simp [isNaN, h]

theorem isInf_of_isFinite (h : x.isFinite = true) : x.isInf = false := by
  simp only [isFinite, bne_iff_ne] at h
  simp [isInf, h]

theorem Plain.sign (h : x.Plain) : x.sign = false := by
  simp only [Plain] at h
  rw [sign_eq, decide_eq_false_iff_not]
  omega

theorem Plain.expo (h : x.Plain) : x.expo = x.bits.toNat / 2 ^ 23 := by
  simp only [Plain] at h
  rw [expo_eq]
  omega

theorem Plain.expo_lt (h : x.Plain) : x.expo < 255 := by
  rw [h.expo]
  simp only [Plain] at h
  omega

theorem Plain.isFinite (h : x.Plain) : x.isFinite = true := by
  rw [F32.isFinite, bne_iff_ne]
  exact h.expo_lt.ne

theorem Plain.isNaN (h : x.Plain) : x.isNaN = false := isNaN_of_isFinite h.isFinite

theorem Plain.isInf (h : x.Plain) : x.isInf = false := isInf_of_isFinite h.isFinite

theorem Plain.val (h : x.Plain) : x.val = x.mag := by
  simp [F32.val, h.sign]

theorem Plain.mono (h : a.Plain) (hx : x.bits.toNat ≤ a.bits.toNat) : x.Plain := lt_of_le_of_lt hx h

/-- Below the infinity the order of the encodings is that of the magnitudes. -/
theorem mag_mono (ha : a.Plain) (hx : x.bits.toNat ≤ a.bits.toNat) : x.mag ≤ a.mag := by
  have hxe := (ha.mono hx).expo
  have hae := ha.expo
  have := (ha.mono hx).expo_lt
  have := ha.expo_lt
  have hxf : x.frac = x.bits.toNat % 2 ^ 23 := frac_eq x
  have haf : a.frac = a.bits.toNat % 2 ^ 23 := frac_eq a
  unfold mag
  rcases (show x.expo ≤ a.expo by omega).lt_or_eq with hlt | heq
  · rw [if_neg (show ¬ a.expo = 0 by omega), if_neg (show ¬ a.expo = 255 by omega)]
    have hlow : 2 ^ 23 * 2 ^ (a.expo - 1) ≤ (a.frac + 2 ^ 23) * 2 ^ (a.expo - 1) :=
      Nat.mul_le_mul_right _ (by omega)
    refine le_trans ?_ hlow
    split_ifs
    · have := Nat.one_le_two_pow (n := a.expo - 1)
      omega
    · omega
    · calc (x.frac + 2 ^ 23) * 2 ^ (x.expo - 1) ≤ 2 ^ 24 * 2 ^ (x.expo - 1) := Nat.mul_le_mul_right _ (by omega)
        _ = 2 ^ 23 * 2 ^ (x.expo - 1 + 1) := by ring
        _ ≤ 2 ^ 23 * 2 ^ (a.expo - 1) :=
          Nat.mul_le_mul_left _ (Nat.pow_le_pow_right (by norm_num) (by omega))
  · rw [heq]
    split_ifs
    · omega
    · exact le_rfl
    · exact Nat.mul_le_mul_right _ (by omega)

end F32

/-- A 24-bit significand is not rounded: it is normal, or it stands at the unit itself. -/
theorem roundBits_of_significand {q e : Nat} (hq : q < 2 ^ 24) (h : 2 ^ 23 ≤ q ∨ e = 0) (s : Nat) :
    roundBits (q * 2 ^ e * 2 ^ s) s = min (e * 2 ^ 23 + q) 0x7F800000 := by
  have hunit : max s ((q * 2 ^ (e + s)).log2 - 23) = e + s := by
    rcases Nat.eq_zero_or_pos q with rfl | hpos
    · simp; omega
    · have hne : q * 2 ^ (e + s) ≠ 0 := Nat.mul_ne_zero hpos.ne' (Nat.two_pow_pos _).ne'
      have hup : (q * 2 ^ (e + s)).log2 < 24 + (e + s) := by
        rw [Nat.log2_lt hne, pow_add 2 24]
        exact Nat.mul_lt_mul_of_pos_right hq (Nat.two_pow_pos _)
      have hlow : 2 ^ 23 ≤ q → 23 + (e + s) ≤ (q * 2 ^ (e + s)).log2 := fun hq => by
        rw [Nat.le_log2 hne, pow_add 2 23]
        exact Nat.mul_le_mul_right _ hq
      omega
  rw [mul_assoc, ← pow_add, roundBits, hunit, roundShift_mul, Nat.add_sub_cancel]

namespace F32

variable {x y a b : F32}

/-- Rounding gives a representable magnitude back, in whatever unit it is written. -/
theorem Plain.roundBits_mag (h : x.Plain) (s : Nat) : roundBits (x.mag * 2 ^ s) s = x.bits.toNat := by
  have he := h.expo
  have hlt := h.expo_lt
  have hf := frac_eq x
  have hb : x.bits.toNat < 0x7F800000 := h
  unfold mag
  split_ifs with h0 h1
  · have := roundBits_of_significand (q := x.frac) (e := 0) (by omega) (.inr rfl) s
    rw [pow_zero, mul_one] at this
    omega
  · omega
  · have := roundBits_of_significand (q := x.frac + 2 ^ 23) (e := x.expo - 1) (by omega) (.inl (by omega)) s
    omega

/-! ### Arithmetic on plain values -/

/-- The encoding of a rounded magnitude without a sign. -/
@[simp] theorem round_false_toNat (n s : Nat) : (round false n s).bits.toNat = roundBits n s :=
  pack_false_toNat (lt_of_le_of_lt (roundBits_le_inf n s) (by norm_num))

/-- The exact product, rounded. -/
theorem Plain.mul_toNat (hx : x.Plain) (hy : y.Plain) : (mul x y).bits.toNat = roundBits (x.mag * y.mag) 149 := by
  simp [mul, hx.isNaN, hy.isNaN, hx.isInf, hy.isInf, hx.sign, hy.sign]

/-- The exact sum, rounded. -/
theorem Plain.add_toNat (hx : x.Plain) (hy : y.Plain) : (add x y).bits.toNat = roundBits (x.mag + y.mag) 0 := by
  have hneg : ¬ ((x.mag : Int) + y.mag < 0) := by omega
  simp only [add, hx.isNaN, hy.isNaN, hx.isInf, hy.isInf, hx.sign, hy.sign, hx.val, hy.val, Bool.or_self,
    Bool.false_eq_true, if_false, Bool.and_self, hneg, decide_false]
  split_ifs with h0
  · rw [show x.mag + y.mag = 0 by omega, roundBits_zero]
    rfl
  · rw [round_false_toNat, show ((x.mag : Int) + y.mag).natAbs = x.mag + y.mag by omega]

/-- The quotient by a positive number, with two bits kept below the unit. -/
theorem Plain.div_toNat (hx : x.Plain) (hy : y.Plain) (h0 : y.isZero = false) : (div x y).bits.toNat =
    roundBits (2 * (x.mag * 2 ^ 150 / y.mag) + if x.mag * 2 ^ 150 % y.mag = 0 then 0 else 1) 2 := by
  simp only [div, hx.isNaN, hy.isNaN, hx.isInf, hy.isInf, hx.sign, hy.sign, h0, Bool.or_self, Bool.false_eq_true,
    if_false, bne_self_eq_false, round_false_toNat]

/-- Multiplication keeps order. -/
theorem mul_mono (ha : a.Plain) (hb : b.Plain) (hx : x.bits.toNat ≤ a.bits.toNat) (hy : y.bits.toNat ≤ b.bits.toNat) :
    (mul x y).bits.toNat ≤ (mul a b).bits.toNat := by
  rw [(ha.mono hx).mul_toNat (hb.mono hy), ha.mul_toNat hb]
  exact roundBits_mono (Nat.mul_le_mul (mag_mono ha hx) (mag_mono hb hy)) _

/-- Addition keeps order. -/
theorem add_mono (ha : a.Plain) (hb : b.Plain) (hx : x.bits.toNat ≤ a.bits.toNat) (hy : y.bits.toNat ≤ b.bits.toNat) :
    (add x y).bits.toNat ≤ (add a b).bits.toNat := by
  rw [(ha.mono hx).add_toNat (hb.mono hy), ha.add_toNat hb]
  exact roundBits_mono (Nat.add_le_add (mag_mono ha hx) (mag_mono hb hy)) _

/-- Division by a fixed positive number keeps order. -/
theorem div_mono (ha : a.Plain) (hy : y.Plain) (h0 : y.isZero = false) (hx : x.bits.toNat ≤ a.bits.toNat) :
    (div x y).bits.toNat ≤ (div a y).bits.toNat := by
  rw [(ha.mono hx).div_toNat hy h0, ha.div_toNat hy h0]
  exact roundBits_mono (stickyQuotient_mono (Nat.mul_le_mul_right _ (mag_mono ha hx)) _) _

/-- The encoding of a natural number keeps order. -/
theorem ofNat_mono {n m : Nat} (h : n ≤ m) : (ofNat n).bits.toNat ≤ (ofNat m).bits.toNat := by
  simp only [ofNat, round_false_toNat]
  exact roundBits_mono (Nat.mul_le_mul_right _ h) _

theorem plain_zero : zero.Plain := by decide
theorem plain_one : one.Plain := by decide
theorem mag_zero : zero.mag = 0 := rfl
theorem mag_one : one.mag = 2 ^ 149 := by decide +kernel

theorem Plain.mul_one (h : x.Plain) : mul x one = x := by
  apply ext_toNat
  rw [h.mul_toNat plain_one, mag_one, h.roundBits_mag]

theorem Plain.mul_zero (h : x.Plain) : mul x zero = zero := by
  apply ext_toNat
  rw [h.mul_toNat plain_zero, mag_zero, Nat.mul_zero, roundBits_zero]
  rfl

theorem Plain.zero_mul (h : x.Plain) : mul zero x = zero := by
  apply ext_toNat
  rw [plain_zero.mul_toNat h, mag_zero, Nat.zero_mul, roundBits_zero]
  rfl

theorem Plain.add_zero (h : x.Plain) : add x zero = x := by
  apply ext_toNat
  simpa [h.add_toNat plain_zero, mag_zero] using h.roundBits_mag 0

theorem Plain.zero_add (h : x.Plain) : add zero x = x := by
  apply ext_toNat
  simpa [plain_zero.add_toNat h, mag_zero] using h.roundBits_mag 0

/-- The values from +0 to 1 in the order of numbers (00_scope.md R12). -/
theorem ge_of_le_one (h : x.bits.toNat ≤ one.bits.toNat) : ge x zero = true ∧ ge one x = true := by
  have hx := plain_one.mono h
  rw [ge_iff, ge_iff, plain_one.val, hx.val]
  have hle : (x.mag : Int) ≤ one.mag := by exact_mod_cast mag_mono plain_one h
  exact ⟨⟨hx.isNaN, rfl, by simp [plain_zero.val, mag_zero]⟩, rfl, hx.isNaN, hle⟩

end F32

end Sys2Proof
end

section
/-!
The seeded generator value by value (40_rng_vgen.md R200, R206-R208), and what its values are: plain numbers up to 1,
so that a blend with weights 1 and 0 gives one stream unchanged.
-/

namespace Sys2Proof.Machine

open F32 (add sub mul zero one)

/-! ### Generate -/

/-- The LCG step in word arithmetic (40_rng_vgen.md R200). -/
theorem lcg_eq : lcg = fun y => 22695477#32 * y + 1#32 := by
  funext y
  simp [lcg, BitVec.ofNat_add, BitVec.ofNat_mul]

@[simp] theorem generate_length (seed : Word) (count : Nat) : (generate seed count).length = count := by
  induction count generalizing seed with
  | zero => rfl
  | succ n ih => simp [generate, ih]

/-- Value k comes from the accumulator after k + 1 steps. -/
theorem generate_getElem? {k count : Nat} (seed : Word) (h : k < count) :
    (generate seed count)[k]? = some (generateValue (lcg^[k + 1] seed)) := by
  induction count generalizing seed k with
  | zero => omega
  | succ n ih =>
    cases k with
    | zero => rfl
    | succ k => simpa [generate] using ih (lcg seed) (by omega)

/-- A longer vector begins with the shorter one (40_rng_vgen.md R208). -/
theorem generate_take (seed : Word) {m count : Nat} (h : m ≤ count) :
    (generate seed count).take m = generate seed m := by
  induction m generalizing seed count with
  | zero => rfl
  | succ m ih =>
    cases count with
    | zero => omega
    | succ n => simp only [generate, List.take_succ_cons, ih (lcg seed) (show m ≤ n by omega)]

/-- A value of Generate is a plain number up to 1. -/
theorem generateValue_le_one (y : Word) : (generateValue y).bits.toNat ≤ one.bits.toNat := by
  have hmax : F32.div (F32.ofNat 4294967295) (F32.ofNat 4294967295) = one := by decide +kernel
  have hplain : (F32.ofNat 4294967295).Plain := by decide +kernel
  rw [← hmax]
  exact F32.div_mono hplain hplain (by decide +kernel) (F32.ofNat_mono (by omega))

theorem le_one_of_mem_generate {seed : Word} {count : Nat} {v : F32} (h : v ∈ generate seed count) :
    v.bits.toNat ≤ one.bits.toNat := by
  induction count generalizing seed with
  | zero => cases h
  | succ n ih =>
    rcases List.mem_cons.1 h with rfl | h
    · exact generateValue_le_one _
    · exact ih h

/-! ### GenerateX -/

@[simp] theorem generateX_length (seed : Word) (count : Nat) (cs : F32) : (generateX seed count cs).length = count := by
  simp [generateX]

theorem generateX_take (seed : Word) {m count : Nat} (cs : F32) (h : m ≤ count) :
    (generateX seed count cs).take m = generateX seed m cs := by
  simp only [generateX, List.take_zipWith, generate_take _ h]

/-- The complement of a seed, written as R207 writes it. -/
theorem xor_ones_eq_not (seed : Word) : seed ^^^ 0xFFFFFFFF#32 = ~~~seed := BitVec.xor_allOnes

/-- Value k is the blend of the two streams' values. -/
theorem generateX_getElem? {seed : Word} {count k : Nat} (cs : F32) {a b : F32}
    (ha : (generate seed count)[k]? = some a) (hb : (generate (~~~seed) count)[k]? = some b) :
    (generateX seed count cs)[k]? = some (add (mul a (sub one cs)) (mul b cs)) := by
  simp [generateX, List.getElem?_zipWith, ha, hb, blend]

/-- With weights 1 and 0 a blend is its first value. -/
theorem blend_one_zero {a b : F32} (ha : a.Plain) (hb : b.Plain) : blend (sub one zero) zero a b = a := by
  rw [show sub one zero = one by decide +kernel, blend, ha.mul_one, hb.mul_zero, ha.add_zero]

/-- With weights 0 and 1 a blend is its second value. -/
theorem blend_zero_one {a b : F32} (ha : a.Plain) (hb : b.Plain) : blend (sub one one) one a b = b := by
  rw [show sub one one = zero by decide +kernel, blend, ha.mul_zero, hb.mul_one, hb.zero_add]

theorem generateX_zero (seed : Word) (count : Nat) : generateX seed count zero = generate seed count := by
  refine List.ext_getElem (by simp) fun k h1 h2 => ?_
  have ha := le_one_of_mem_generate (List.getElem_mem h2)
  have hb := le_one_of_mem_generate (List.getElem_mem (l := generate (~~~seed) count) (n := k) (by simpa using h2))
  simpa [generateX] using blend_one_zero (F32.plain_one.mono ha) (F32.plain_one.mono hb)

theorem generateX_one (seed : Word) (count : Nat) : generateX seed count one = generate (~~~seed) count := by
  refine List.ext_getElem (by simp) fun k h1 h2 => ?_
  have ha := le_one_of_mem_generate (List.getElem_mem (l := generate seed count) (n := k) (by simpa using h2))
  have hb := le_one_of_mem_generate (List.getElem_mem h2)
  simpa [generateX] using blend_zero_one (F32.plain_one.mono ha) (F32.plain_one.mono hb)

end Sys2Proof.Machine
end

section
/-!
What is derived from a seeded vector, entry by entry: the stages of a diffuser (42_allpass_delay.md R309, R310), the
taps of the multi-tap (43_multitap.md R361, R362), a line (44_fdn_channel.md R392).
-/

namespace Sys2Proof.Machine

open F32 (add sub mul div neg zero one)

/-! ### The diffuser -/

/-- A derivation changes a diffuser's nominal values, G and stages, and nothing else. -/
theorem Diff.derive_frame (T : Transc) (fs delayMs amtMs rateHz g : F32) (d : Diff) :
    { d.derive T fs delayMs amtMs rateHz g with
      nomDelay := d.nomDelay, nomAmt := d.nomAmt, nomRate := d.nomRate, g := d.g, stages := d.stages } = d := rfl

@[simp] theorem Diff.derive_stage (T : Transc) (fs delayMs amtMs rateHz g : F32) (d : Diff) (i : Fin 12) :
    (d.derive T fs delayMs amtMs rateHz g).stages.get i =
      Diff.deriveStage T (ms2s fs delayMs) (ms2s fs amtMs) (hz2c fs rateHz) g d.vec i (d.stages.get i) := by
  simp only [Diff.derive, Twelve.get_mapIdx]

/-! ### The multi-tap -/

theorem Mt.reseed_frame (T : Transc) (seed : Word) (cs : F32) (m : Mt) :
    { m.reseed T seed cs with gain := m.gain, pos := m.pos } = { m with seed := seed, cs := cs } := rfl

theorem vecAt_of_getElem? {v : List F32} {k : Nat} {x : F32} (h : v[k]? = some x) : vecAt v k = x := by
  simp [vecAt, List.getD, h]

theorem Mt.reseed_gain_getElem? (T : Transc) (seed : Word) (cs : F32) (m : Mt) {j : Nat} (h : j < 256) :
    (m.reseed T seed cs).gain[j]? = some (Mt.seedGain T (generateX seed 768 cs) j) := by
  simp [Mt.reseed, Config.maxTaps, List.getElem?_range h]

theorem Mt.reseed_pos_getElem? (T : Transc) (seed : Word) (cs : F32) (m : Mt) {j : Nat} (h : j < 256) :
    (m.reseed T seed cs).pos[j]? = some (Mt.seedPos (generateX seed 768 cs) j) := by
  simp [Mt.reseed, Config.maxTaps, List.getElem?_range h]

theorem Mt.derive_frame (T : Transc) (fs : F32) (n : Nat) (ms d : F32) (m : Mt) :
    { m.derive T fs n ms d with count := m.count, decay := m.decay, len := m.len, idx := m.idx, w := m.w } = m := rfl

/-- A table whose first n entries are computed and whose others are kept: its computed entries. -/
theorem getElem?_range_map_append {α : Type} (f : Nat → α) (old : List α) {n j : Nat} (h : j < n) :
    ((List.range n).map f ++ old.drop n)[j]? = some (f j) := by
  rw [List.getElem?_append_left (by simpa using h)]
  simp [List.getElem?_range h]

/-- A table whose first n entries are computed and whose others are kept: its kept entries. -/
theorem drop_range_map_append {α : Type} (f : Nat → α) (old : List α) (n : Nat) :
    ((List.range n).map f ++ old.drop n).drop n = old.drop n :=
  List.drop_left' (by simp)

/-! ### GenerateValues -/

/-- Generate, value by value. -/
theorem generate_values (seed : Word) (count : Nat) :
    (generate seed count).length = count ∧
    (∀ k < count, (generate seed count)[k]? =
      some (F32.div (F32.ofNat ((fun y => 22695477#32 * y + 1#32)^[k + 1] seed).toNat) (F32.ofNat 4294967295))) ∧
    (∀ v ∈ generate seed count, F32.ge v ⟨0x00000000⟩ = true ∧ F32.ge ⟨0x3F800000⟩ v = true) := by
  refine ⟨generate_length _ _, fun k h => ?_, fun v h => F32.ge_of_le_one (le_one_of_mem_generate h)⟩
  rw [generate_getElem? seed h, lcg_eq]
  rfl

/-- The multi-tap's reseed, tap by tap. -/
theorem Mt.reseed_taps (T : Transc) (seed : Word) (cs : F32) (m : Mt) {j : Nat} {coin g p : F32} (hj : j < 256)
    (hc : (generateX seed 768 cs)[j]? = some coin) (hg : (generateX seed 768 cs)[256 + j]? = some g)
    (hp : (generateX seed 768 cs)[512 + j]? = some p) :
    (m.reseed T seed cs).gain[j]? = some (F32.mul (if F32.lt ⟨0x3F000000⟩ coin then ⟨0x3F800000⟩ else ⟨0xBF800000⟩)
        (T.exp10 (F32.div (F32.add ⟨0xC1A00000⟩ (F32.mul g ⟨0x41A00000⟩)) ⟨0x41A00000⟩))) ∧
      (m.reseed T seed cs).pos[j]? = some (F32.add (F32.ofNat j) p) := by
  rw [Mt.reseed_gain_getElem? T seed cs m hj, Mt.reseed_pos_getElem? T seed cs m hj, Mt.seedGain, Mt.seedPos,
    vecAt_of_getElem? hc, vecAt_of_getElem? hg, vecAt_of_getElem? hp]
  exact ⟨rfl, rfl⟩

/-- The multi-tap's derivation. -/
theorem Mt.derive_taps (T : Transc) (fs : F32) (n : Nat) (ms d : F32) (m : Mt) :
    ∃ scaler norm : F32, scaler = F32.div (m.derive T fs n ms d).len (F32.ofNat n) ∧
      norm = F32.mul (F32.div ⟨0x40400000⟩ (F32.sqrt (F32.add ⟨0x3F800000⟩ (F32.ofNat n))))
        (F32.add ⟨0x3F800000⟩ (F32.mul ⟨0x40000000⟩ d)) ∧
      (m.derive T fs n ms d).idx.drop n = m.idx.drop n ∧ (m.derive T fs n ms d).w.drop n = m.w.drop n ∧
      ∀ j < n, (m.derive T fs n ms d).idx[j]? = some (Mt.tapIdx scaler m.pos j) ∧
        (m.derive T fs n ms d).w[j]? =
          some (Mt.tapWeight T scaler (m.derive T fs n ms d).len d norm m.gain m.pos j) := by
  refine ⟨_, _, rfl, rfl, drop_range_map_append _ _ _, drop_range_map_append _ _ _, fun j hj => ?_⟩
  exact ⟨getElem?_range_map_append _ _ hj, getElem?_range_map_append _ _ hj⟩

end Sys2Proof.Machine
end

section
open Sys2Proof Sys2Proof.Machine

/-- Settles O25: Generate by induction on the count, GenerateX by the exactness of the weights 0 and 1, and each
derivation entry by entry. -/
theorem generateValues : Obligations.GenerateValues := by
  unfold Obligations.GenerateValues
  refine ⟨generate_values, fun seed m count => generate_take seed, fun seed m count cs => generateX_take seed cs,
    fun seed count cs => ⟨generateX_length _ _ _, fun k a b ha hb => ?_⟩, generateX_zero, fun seed count => ?_,
    fun fs x => ⟨rfl, rfl, rfl⟩, ?_, fun _ _ _ => rfl, ?_, ?_, ?_⟩
  · rw [xor_ones_eq_not] at hb
    exact generateX_getElem? cs ha hb
  · rw [xor_ones_eq_not]
    exact generateX_one seed count
  · rintro T fs delayMs amtMs rateHz g d e rfl
    refine ⟨rfl, rfl, rfl, rfl, Diff.derive_frame _ _ _ _ _ _ _, fun i => ?_⟩
    rw [Diff.derive_stage, Diff.deriveStage]
    rfl
  · rintro T seed cs m e v rfl rfl
    exact ⟨Mt.reseed_frame _ _ _ _, by simp [Mt.reseed, Config.maxTaps], by simp [Mt.reseed, Config.maxTaps],
      fun j coin g p => Mt.reseed_taps T seed cs m⟩
  · rintro T fs n ms d m e rfl
    obtain ⟨scaler, norm, hs, hn, hidx, hw, htaps⟩ := Mt.derive_taps T fs n ms d m
    refine ⟨scaler, norm, rfl, rfl, rfl, hs, hn, Mt.derive_frame _ _ _ _ _ _, hidx, hw, fun j hj => ?_⟩
    obtain ⟨hi, hw⟩ := htaps j hj
    exact ⟨_, _, rfl, rfl, hi, hw⟩
  · rintro T nominal nl amt decS v k sd x g hx rfl
    rw [lineJitter, lineDelay, vecAt_of_getElem? hx]
    exact ⟨rfl, rfl, rfl⟩
end

section
/-!
The control registers' conversions (10_state.md R50, R53): the range of each register's type is in order, so that a
value accepted once is legal and is accepted again as it is.
-/

namespace Sys2Proof

/-- A value is clamped to the lower bound unless it is above it, and to the upper one unless it is below it. -/
theorem F32.clamp_bits (v lo hi : F32) : (F32.clamp v lo hi).bits =
    if F32.lt lo v then (if F32.lt v hi then v.bits else hi.bits)
    else if F32.lt lo hi then lo.bits else hi.bits := by
  unfold F32.clamp F32.max F32.min
  split_ifs <;> rfl

end Sys2Proof

namespace Sys2Proof.Machine

/-- The range of a register type is a range: two numbers in order, the upper one a word. -/
def RegType.ordered : RegType → Bool
  | .float lo hi => F32.lt lo hi
  | .bool => true
  | .unsigned lo hi => decide (lo ≤ hi) && decide (hi < 2 ^ 32)
  | .enum _ => true

/-- Every register's range is in order (10_state.md R53). -/
theorem Reg.type_ordered (r : Reg) : r.type.ordered = true := by
  cases r with
  | glob r => cases r <;> decide +kernel
  | chan r => cases r <;> decide +kernel

/-! ### Acceptance by type -/

theorem boolWord_bne_zero (w : Word) : boolWord (w != 0) = if w = 0 then 0 else 1 := by
  by_cases h : w = 0 <;> simp [boolWord, h]

/-- A U word is clamped. -/
theorem clampi_natCast (n lo hi : Nat) : clampi n lo hi = min (max n lo) hi := by
  unfold clampi
  omega

/-- The stored value of a write is legal, and written again it is stored as it is (10_state.md R50). -/
theorem RegType.accept_stored {y : RegType} (hy : y.ordered = true) {w v : Word} (h : y.accept w = some v) :
    y.legal v = true ∧ y.accept v = some v := by
  cases y with
  | float lo hi =>
    obtain ⟨hl, hh, hlt⟩ := F32.lt_iff.1 hy
    simp only [RegType.accept, Option.ite_none_left_eq_some, Option.some.injEq] at h
    obtain ⟨-, rfl⟩ := h
    obtain ⟨hn, hge, hle⟩ := F32.clamp_bounds (v := ⟨w⟩) hl hh hlt.le
    have hidem := F32.clamp_idem (v := ⟨w⟩) hl hh hlt
    simp [RegType.legal, RegType.accept, F32.ge_iff, hl, hh, hn, hge, hle, hidem]
  | bool =>
    simp only [RegType.accept, boolWord_bne_zero, Option.some.injEq] at h
    subst h
    split_ifs <;> decide
  | unsigned lo hi =>
    simp only [RegType.ordered, Bool.and_eq_true, decide_eq_true_eq] at hy
    obtain ⟨hle, hhi⟩ := hy
    simp only [RegType.accept, clampi_natCast, Option.some.injEq] at h
    have hv : v.toNat = min (max w.toNat lo) hi := by
      rw [← h, BitVec.toNat_ofNat, Nat.mod_eq_of_lt (by omega)]
    refine ⟨by simp [RegType.legal]; omega, ?_⟩
    rw [RegType.accept, clampi_natCast, show min (max v.toNat lo) hi = v.toNat by omega, BitVec.ofNat_toNat,
      BitVec.setWidth_eq]
  | enum hi =>
    simp only [RegType.accept, Option.ite_none_left_eq_some, Option.some.injEq] at h
    obtain ⟨hle, rfl⟩ := h
    simp only [RegType.legal, RegType.accept, if_neg hle, decide_eq_true_eq, and_true]
    omega

/-- A write is refused only for a NaN in an F register and for an E word above the range (10_state.md R50). -/
theorem RegType.accept_eq_none_iff {y : RegType} {w : Word} : y.accept w = none ↔
    (∃ lo hi, y = .float lo hi ∧ F32.isNaN ⟨w⟩ = true) ∨ ∃ hi, y = .enum hi ∧ hi < w.toNat := by
  cases y <;> simp [RegType.accept]

/-! ### The table -/

/-- The number and type of a register that a SEL number names stand in the table (10_state.md R53). -/
theorem mem_regTypes_of_ofSel {sel : BitVec 12} {r : Reg} (h : Reg.ofSel sel = some r) :
    (sel.toNat, r.type) ∈ regTypes := by
  unfold Reg.ofSel at h
  split at h <;> simp only [Option.some.injEq, reduceCtorEq] at h <;> subst h <;>
    (rename_i hsel; rw [hsel]; decide)

/-- Each row of the table is a register with its type (10_state.md R53). -/
theorem ofSel_of_mem_regTypes :
    ∀ p ∈ regTypes, (Reg.ofSel (BitVec.ofNat 12 p.1)).map Reg.type = some p.2 := by
  decide

end Sys2Proof.Machine
end

section
open Sys2Proof Sys2Proof.Machine

/-- Settles O13, by cases on the register's type; every register's range is in order. -/
theorem regConversions : Obligations.RegConversions := by
  unfold Obligations.RegConversions
  refine ⟨fun r w => ?_, fun r w v h => RegType.accept_stored r.type_ordered h,
    fun r w => RegType.accept_eq_none_iff, fun a y => ofSel_of_mem_regTypes (a, y), fun sel r => mem_regTypes_of_ofSel⟩
  cases r.type with
  | float lo hi =>
    simp only [RegType.accept, F32.clamp_bits]
    split_ifs <;> rfl
  | bool => simp only [RegType.accept, boolWord_bne_zero]
  | unsigned lo hi => simp only [RegType.accept, clampi_natCast]
  | enum hi => rfl
end

section
/-!
DERIVE_ALL unit by unit (45_control.md R455): each unit of the derived channel is a function of the registers, the
channel's CS and that unit alone.
-/

namespace Sys2Proof.Machine

/-- What DERIVE_ALL makes of a diffuser: reseeded, derived, with its COUNT, G and MOD_EN. -/
def Diff.deriveAll (T : Transc) (fs : F32) (seed : Word) (cs delayMs amtMs rateHz g : F32) (count : Nat) (modEn : Bool)
    (d : Diff) : Diff :=
  ((((d.reseed seed cs).derive T fs delayMs amtMs rateHz g).setCount count).setG g).setModEn modEn

/-- The fields of a diffuser after DERIVE_ALL, but for its stages. -/
theorem Diff.deriveAll_eq (T : Transc) (fs : F32) (seed : Word) (cs delayMs amtMs rateHz g : F32) (count : Nat)
    (modEn : Bool) (d : Diff) :
    d.deriveAll T fs seed cs delayMs amtMs rateHz g count modEn =
      { count := count, seed := seed, cs := cs, vec := generateX seed 36 cs
        nomDelay := ms2s fs delayMs, nomAmt := ms2s fs amtMs, nomRate := hz2c fs rateHz, g := g, modEn := modEn
        stages := (d.deriveAll T fs seed cs delayMs amtMs rateHz g count modEn).stages } := rfl

/-- A stage of a diffuser after DERIVE_ALL. -/
theorem Diff.deriveAll_stage (T : Transc) (fs : F32) (seed : Word) (cs delayMs amtMs rateHz g : F32) (count : Nat)
    (modEn : Bool) (d : Diff) (i : Fin 12) :
    (d.deriveAll T fs seed cs delayMs amtMs rateHz g count modEn).stages.get i =
      { Diff.deriveStage T (ms2s fs delayMs) (ms2s fs amtMs) (hz2c fs rateHz) g (generateX seed 36 cs) i
          (d.stages.get i) with g := g, modEn := modEn } := by
  simp only [Diff.deriveAll, Diff.setModEn, Diff.setG, Diff.setCount, Twelve.get_map, Diff.derive_stage, Diff.reseed]

/-- What DERIVE_ALL makes of line l of a channel with these registers and this CS. -/
def Line.deriveAll (T : Transc) (fs cs : F32) (r : ChanRegs) (l : Fin 12) (u : Line) : Line :=
  Line.update T (generateX r.seedDelay 36 cs) (ms2s fs r.lateLineSizeMs) (ms2s fs r.lateLineModAmtMs)
    (hz2c fs r.lateLineModRateHz) (F32.max F32.one (s2s fs r.lateLineDecayS)) l
    { u with
      dif := u.dif.deriveAll T fs (lineDiffSeed r.seedPostdiffusion l) cs r.lateDifDelayMs r.lateDifModAmtMs
        r.lateDifModRateHz r.lateDifFeedback r.lateDifCount.toNat r.lateDifModEn
      lsh := u.lsh.derive T fs .lsh r.eqLshHz r.eqLshDb F32.q0
      hsh := u.hsh.derive T fs .hsh r.eqHshHz r.eqHshDb F32.q0
      damp := u.damp.derive T fs r.eqLpHz }

/-- The channel d is c with every unit derived (45_control.md R455). -/
structure Channel.AllDerived (T : Transc) (fs : F32) (k : Chan) (c d : Channel) : Prop where
  regs : d.regs = c.regs
  cs : d.cs = crossSeed k c.regs.crossSeed
  hpc : d.hpc = c.hpc.derive T fs c.regs.lowcutHz
  lpc : d.lpc = c.lpc.derive T fs c.regs.highcutHz
  pre : d.pre = Tap.refresh Config.nMd { c.pre with
    sd := clampi (ms2s fs c.regs.tapPredelayMs).trunc 1 (Config.nMd - 2), amt := F32.zero, rate := F32.zero }
  mt : d.mt = (c.mt.reseed T c.regs.seedTap (crossSeed k c.regs.crossSeed)).derive T fs c.regs.tapCount.toNat
    c.regs.tapLengthMs c.regs.tapDecay
  ed : d.ed = c.ed.deriveAll T fs c.regs.seedDiffusion (crossSeed k c.regs.crossSeed) c.regs.edifDelayMs
    c.regs.edifModAmtMs c.regs.edifModRateHz c.regs.edifFeedback c.regs.edifCount.toNat c.regs.edifModEn
  bqx : ∀ type, BqType.ofWord c.regs.bqxType = some type →
    d.bqx = c.bqx.derive T fs type c.regs.bqxHz c.regs.bqxDb c.regs.bqxQ
  line : ∀ l, d.lines.get l = Line.deriveAll T fs (crossSeed k c.regs.crossSeed) c.regs l (c.lines.get l)
  lineVec : d.lineVec = generateX c.regs.seedDelay 36 (crossSeed k c.regs.crossSeed)
  nomLine : d.nomLine = ms2s fs c.regs.lateLineSizeMs
  decaySamples : d.decaySamples = F32.max F32.one (s2s fs c.regs.lateLineDecayS)

/-- DERIVE_ALL derives every unit. The derivation of BQX, whose case split stops the others from computing, is replaced
by its shape first. -/
theorem Channel.allDerived_deriveAll (T : Transc) (fs : F32) (k : Chan) (c : Channel) :
    Channel.AllDerived T fs k c (c.deriveAll T fs k) := by
  unfold Channel.deriveAll
  dsimp only
  generalize he : Channel.deriveEdMod _ = e
  obtain ⟨b, hshape, hb⟩ := Channel.deriveBqx_shape T fs e
  rw [hshape]
  dsimp only [Channel.deriveEdMod, Channel.deriveEdG, Channel.deriveEdCount, Channel.reseedEd, Channel.deriveEd,
    Channel.reseedMt, Channel.deriveMt, Channel.derivePre, Channel.deriveLpc, Channel.deriveHpc, Channel.deriveCs] at he
  subst he
  dsimp only [Channel.updateLines, Channel.deriveDamp, Channel.deriveHsh, Channel.deriveLsh, Channel.deriveLdifMod,
    Channel.deriveLdifG, Channel.deriveLdifCount, Channel.reseedLdif, Channel.mapLines]
  refine ⟨rfl, rfl, rfl, rfl, rfl, rfl, rfl, hb, fun l => ?_, rfl, rfl, rfl⟩
  simp only [Twelve.get_mapIdx, Twelve.get_map, Line.reseedDif, Line.deriveDif, Line.deriveAll, Diff.deriveAll]

/-! ### A channel at reset -/

/-- Reset derives every unit of the blank channel and then clears its samples (70_reset_and_hazards.md R600). -/
theorem Channel.reset_eq (T : Transc) (k : Chan) :
    ∃ d, Channel.AllDerived T ⟨0x473B8000⟩ k Channel.blank d ∧ Channel.reset T k = d.clearAll :=
  ⟨_, Channel.allDerived_deriveAll T _ k _, rfl⟩

end Sys2Proof.Machine
end

section
/-!
The reference instance of 10^x is finite on [0, 1] (00_scope.md R16), so that a product with a nominal value +0 is a
zero. The series keeps its terms within 1, and the range reduction keeps its argument within 1 and its power of two
within 2^4.
-/

namespace Sys2Proof

/-! ### Finite results of rounding -/

namespace F32

/-- Below the infinity's encoding a rounded magnitude is finite, with either sign. -/
theorem isFinite_round {n s : Nat} (neg : Bool) (h : roundBits n s < 0x7F800000) : (round neg n s).isFinite = true := by
  have hexp : (round neg n s).expo < 255 := by
    rw [round_eq_pack, expo_eq, pack]
    cases neg <;> simp only [if_true, if_false, Bool.false_eq_true, BitVec.toNat_ofNat] <;> omega
  simp only [isFinite, bne_iff_ne]
  omega

/-- A finite magnitude is below 2^277 units. -/
theorem mag_lt_of_isFinite {x : F32} (h : x.isFinite = true) : x.mag < 2 ^ 277 := by
  simp only [isFinite, bne_iff_ne] at h
  have hexp : x.expo < 256 := by rw [expo_eq]; omega
  have hfrac : x.frac < 2 ^ 23 := by rw [frac_eq]; omega
  unfold mag
  split_ifs
  · omega
  · calc (x.frac + 2 ^ 23) * 2 ^ (x.expo - 1) < 2 ^ 24 * 2 ^ (x.expo - 1) :=
          Nat.mul_lt_mul_of_pos_right (by omega) (Nat.two_pow_pos _)
      _ ≤ 2 ^ 24 * 2 ^ 253 := Nat.mul_le_mul_left _ (Nat.pow_le_pow_right (by norm_num) (by omega))
      _ = 2 ^ 277 := by rw [← pow_add]

/-- A finite value times 0.1 is finite. -/
theorem isFinite_mul_c01 {x : F32} (h : x.isFinite = true) : (mul x c01).isFinite = true := by
  have hc : c01.isFinite = true := by decide
  simp only [mul, isNaN_of_isFinite h, isNaN_of_isFinite hc, isInf_of_isFinite h, isInf_of_isFinite hc, Bool.or_self,
    Bool.false_eq_true, if_false]
  refine isFinite_round _ (lt_of_le_of_lt (roundBits_mono (Nat.mul_le_mul_right _ (mag_lt_of_isFinite h).le) _) ?_)
  decide +kernel

/-- The whole part of +0 times a finite value is 0. -/
theorem trunc_zero_mul {x : F32} (h : x.isFinite = true) : (mul zero x).trunc = 0 := by
  have hz : zero.isFinite = true := by decide
  simp only [mul, isNaN_of_isFinite h, isNaN_of_isFinite hz, isInf_of_isFinite h, isInf_of_isFinite hz, Bool.or_self,
    Bool.false_eq_true, if_false, mag_zero, Nat.zero_mul, round_eq_pack, roundBits_zero]
  cases zero.sign != x.sign <;> decide

end F32

/-! ### The exponential series -/

theorem fixOne_pos : 0 < fixOne := by decide +kernel

/-- A product of two values within 1 lies within 1. -/
theorem abs_fixMul_le {a b : Int} (ha : |a| ≤ fixOne) (hb : |b| ≤ fixOne) : |fixMul a b| ≤ fixOne := by
  have hab : |a * b| ≤ fixOne * fixOne := by
    rw [abs_mul]
    exact mul_le_mul ha hb (abs_nonneg b) fixOne_pos.le
  rw [abs_le] at hab ⊢
  exact ⟨Int.le_ediv_of_mul_le fixOne_pos (by linarith), Int.ediv_le_of_le_mul fixOne_pos hab.2⟩

/-- Each term of the exponential series of an argument within 1 lies within 1. -/
theorem abs_fixExpSum_le {r : Int} (hr : |r| ≤ fixOne) (fuel k : Nat) {t : Int} (sum : Int) (ht : |t| ≤ fixOne) :
    |fixExpSum r fuel k t sum| ≤ |sum| + fuel * fixOne := by
  induction fuel generalizing k t sum with
  | zero => simp [fixExpSum]
  | succ n ih =>
    have hterm : |fixMul t r / ((k + 1 : Nat) : Int)| ≤ fixOne :=
      (Int.abs_ediv_le_abs _ _).trans (abs_fixMul_le ht hr)
    have := ih (k + 1) (sum + t) hterm
    have := abs_add_le sum t
    rw [fixExpSum]
    push_cast at *
    linarith

/-- e^x is finite for x in fixed point between 0 and ln 10. -/
theorem isFinite_refExpFix {x : Int} (h0 : 0 ≤ x) (h1 : x ≤ fixLn10) : (refExpFix x).isFinite = true := by
  have hln2 : 0 < 2 * fixLn2 := by decide +kernel
  have hln10 : 2 * fixLn10 + fixLn2 < 5 * (2 * fixLn2) := by decide +kernel
  have hone : fixLn2 ≤ fixOne := by decide +kernel
  simp only [refExpFix]
  generalize hk : (2 * x + fixLn2) / (2 * fixLn2) = k
  have hk0 : 0 ≤ k := hk ▸ Int.ediv_nonneg (by linarith) hln2.le
  have hk5 : k < 5 := hk ▸ Int.ediv_lt_of_lt_mul hln2 (by linarith)
  have hr : |x - k * fixLn2| ≤ fixOne := by
    have hlow : k * (2 * fixLn2) ≤ 2 * x + fixLn2 := hk ▸ Int.ediv_mul_le _ hln2.ne'
    have hup : 2 * x + fixLn2 < (k + 1) * (2 * fixLn2) := hk ▸ Int.lt_ediv_add_one_mul_self _ hln2
    rw [abs_le]
    constructor <;> linarith
  have hv := abs_fixExpSum_le hr 120 0 0 (abs_of_pos fixOne_pos).le
  generalize fixExpSum (x - k * fixLn2) 120 0 fixOne 0 = v at hv ⊢
  lift k to Nat using hk0 with n
  have hv : v.natAbs ≤ 120 * 2 ^ fixBits := by
    rwa [abs_zero, zero_add, fixOne, ← Nat.cast_mul, ← Int.natCast_natAbs, Int.ofNat_le] at hv
  have hbound : roundBits (120 * 2 ^ fixBits * 2 ^ 4) (fixBits - 149) < 0x7F800000 := by decide +kernel
  generalize 2 ^ fixBits = one at hv hbound
  refine F32.isFinite_round _ (lt_of_le_of_lt (roundBits_mono ?_ _) hbound)
  rw [Int.natAbs_mul, Int.natAbs_natCast]
  exact Nat.mul_le_mul hv (Nat.pow_le_pow_right (by norm_num) (by omega))

/-- 10^x of the reference instance is finite for x from +0 to 1. -/
theorem isFinite_refExp10 {x : F32} (h : x.bits.toNat ≤ F32.one.bits.toNat) : (refExp10 x).isFinite = true := by
  have hx := F32.plain_one.mono h
  have hmag : x.mag ≤ 2 ^ 149 := F32.mag_one ▸ F32.mag_mono F32.plain_one h
  have hval : x.val ≤ 2 ^ 149 := by rw [hx.val]; exact_mod_cast hmag
  have hval0 : 0 ≤ x.val := by rw [hx.val]; positivity
  have hlarge : ¬ F32.ge x ⟨0x421C0000⟩ = true := by
    rw [F32.ge_iff, show (⟨0x421C0000⟩ : F32).val = 39 * 2 ^ 149 by decide +kernel]
    rintro ⟨-, -, hle⟩
    omega
  have hfix0 : 0 ≤ x.toFix := mul_nonneg hval0 (by positivity)
  have hfix1 : x.toFix ≤ fixOne :=
    (mul_le_mul_of_nonneg_right hval (by positivity)).trans (by decide +kernel)
  unfold refExp10
  rw [if_neg (by simp [hx.isNaN]), if_neg hlarge]
  split_ifs
  · decide
  · refine isFinite_refExpFix (Int.ediv_nonneg (mul_nonneg hfix0 (by decide)) fixOne_pos.le) ?_
    refine Int.ediv_le_of_le_mul fixOne_pos ?_
    rw [mul_comm fixLn10]
    exact mul_le_mul_of_nonneg_right hfix1 (by decide)

end Sys2Proof
end

section
/-!
The derived reset values (10_state.md R61-R68; 70_reset_and_hazards.md R600), for the reference instance of TRANSC. A
unit without a seeded vector is a closed value, computed. A unit with one has nominal values +0 at reset, and +0 times
a jitter of entries in [0, 1] is +0, so its value does not depend on the vector.
-/

namespace Sys2Proof.Machine

open F32 (add sub mul zero one)

/-! ### The nominal value +0 -/

/-- `a + b·x` for x up to 1 is plain where `a + b` is. -/
theorem plain_affine {a b x : F32} (ha : a.Plain) (hb : b.Plain) (hab : (add a b).Plain)
    (hx : x.bits.toNat ≤ one.bits.toNat) : (add a (mul b x)).Plain := by
  refine hab.mono (F32.add_mono ha hb le_rfl ?_)
  have := F32.mul_mono hb F32.plain_one le_rfl hx
  rwa [hb.mul_one] at this

/-- The jitter of a diffuser's stage does not move +0. -/
theorem zero_mul_stageJitter {x : F32} (hx : x.bits.toNat ≤ one.bits.toNat) :
    mul zero (add F32.c085 (mul F32.c03 x)) = zero :=
  (plain_affine (by decide) (by decide) (by decide +kernel) hx).zero_mul

/-- An entry of a vector whose values are at most 1. -/
theorem vecAt_le_one {v : List F32} (hv : ∀ x ∈ v, x.bits.toNat ≤ one.bits.toNat) (k : Nat) :
    (vecAt v k).bits.toNat ≤ one.bits.toNat := by
  rw [vecAt, List.getD_eq_getElem?_getD]
  cases h : v[k]? with
  | none => decide
  | some x => exact hv x (List.mem_of_getElem? h)

theorem lineJitter_zero {v : List F32} (hv : ∀ x ∈ v, x.bits.toNat ≤ one.bits.toNat) (k : Nat) :
    lineJitter zero v k = zero :=
  (plain_affine (by decide) (by decide) (by decide +kernel) (vecAt_le_one hv k)).zero_mul

/-- The delay of a line without size and modulation is the 2 samples of its floor (44_fdn_channel.md R392). -/
theorem lineDelay_zero {v : List F32} (hv : ∀ x ∈ v, x.bits.toNat ≤ one.bits.toNat) (i : Nat) :
    lineDelay zero zero v i = 2 := by
  have hplain : (add F32.half (mul one (vecAt v i))).Plain :=
    plain_affine (by decide) F32.plain_one (by decide +kernel) (vecAt_le_one hv i)
  rw [lineDelay, hplain.mul_zero]
  decide +kernel

/-- At reset the CS of a channel is 1 or +0, so its vectors are streams of Generate (44_fdn_channel.md R394). -/
theorem crossSeed_reset (k : Chan) : crossSeed k zero = if k = .L then one else zero := by
  cases k <;> decide +kernel

theorem le_one_of_mem_generateX_reset {k : Chan} {seed : Word} {count : Nat} {x : F32}
    (h : x ∈ generateX seed count (crossSeed k zero)) : x.bits.toNat ≤ one.bits.toNat := by
  rw [crossSeed_reset] at h
  split_ifs at h
  · rw [generateX_one] at h
    exact le_one_of_mem_generate h
  · rw [generateX_zero] at h
    exact le_one_of_mem_generate h

/-! ### The units with a seeded vector -/

/-- A stage of a diffuser without delay and modulation is a blank stage, whatever its vector. -/
theorem Diff.deriveStage_blank {v : List F32} (hv : ∀ x ∈ v, x.bits.toNat ≤ one.bits.toNat) (i : Fin 12) :
    Diff.deriveStage Transc.reference zero zero zero zero v i Apf.blank = Apf.blank := by
  have hsd : (mul zero (mul (Transc.reference.exp10 (vecAt v i)) F32.c01)).trunc = 0 :=
    F32.trunc_zero_mul (F32.isFinite_mul_c01 (isFinite_refExp10 (vecAt_le_one hv i)))
  have hamt := zero_mul_stageJitter (vecAt_le_one hv (12 + i))
  have hrate := zero_mul_stageJitter (vecAt_le_one hv (24 + i))
  simp only [Diff.deriveStage, hsd, hamt, hrate]
  decide +kernel

theorem ms2s_zero : ms2s ⟨0x473B8000⟩ zero = zero := by decide +kernel
theorem hz2c_zero : hz2c ⟨0x473B8000⟩ zero = zero := by decide +kernel

/-- A diffuser at reset is a blank one with its seed, its CS and the vector of both (10_state.md R65). -/
theorem Diff.deriveAll_blank (k : Chan) (seed : Word) :
    Diff.deriveAll Transc.reference ⟨0x473B8000⟩ seed (crossSeed k zero) zero zero zero zero 1 true Diff.blank =
      Diff.blank.reseed seed (crossSeed k zero) := by
  rw [Diff.deriveAll_eq, ms2s_zero, hz2c_zero]
  congr 1
  refine Twelve.ext_get fun i => ?_
  rw [Diff.deriveAll_stage, ms2s_zero, hz2c_zero, Diff.blank, Twelve.get_ofFn,
    Diff.deriveStage_blank fun _ => le_one_of_mem_generateX_reset]
  rfl

/-- A line at reset but for its filters: the gain of a delay of 2 samples over a decay of 1, the delay and its refreshed
taps, the diffuser of the line's seed (10_state.md R67; 44_fdn_channel.md R392, R393). -/
theorem Line.deriveAll_blank (k : Chan) (l : Fin 12) :
    Line.deriveAll Transc.reference ⟨0x473B8000⟩ (crossSeed k zero) ChanRegs.reset l Line.blank =
      { Line.blank with
        gain := ⟨0x358637BD⟩
        mdly := { Tap.blank with sd := 2, da := 2, db := 3 }
        dif := Diff.blank.reseed (BitVec.ofNat 32 (l.val * 0x9E3779B9)) (crossSeed k zero)
        lsh := (Biquad.blank .lsh).derive Transc.reference ⟨0x473B8000⟩ .lsh ⟨0x41A00000⟩ zero F32.q0
        hsh := (Biquad.blank .hsh).derive Transc.reference ⟨0x473B8000⟩ .hsh ⟨0x469C4000⟩ zero F32.q0
        damp := (OnePole.blank false).derive Transc.reference ⟨0x473B8000⟩ ⟨0x469C4000⟩ } := by
  have hdecay : F32.max one (s2s ⟨0x473B8000⟩ zero) = one := by decide +kernel
  have hgain : lineGain Transc.reference 2 one = ⟨0x358637BD⟩ := by decide +kernel
  have htap : Tap.refresh Config.nMd { Line.blank.mdly with sd := 2, amt := zero, rate := zero } =
    { Tap.blank with sd := 2, da := 2, db := 3 } := by decide +kernel
  have hseed : lineDiffSeed 0 l = BitVec.ofNat 32 (l.val * 0x9E3779B9) := BitVec.zero_add _
  have hvec : ∀ x ∈ generateX 0 36 (crossSeed k zero), x.bits.toNat ≤ one.bits.toNat :=
    fun _ => le_one_of_mem_generateX_reset
  change Line.update _ (generateX 0 36 _) (ms2s _ zero) (ms2s _ zero) (hz2c _ zero) (F32.max one (s2s _ zero)) l
    { Line.blank with
      dif := Diff.deriveAll _ _ (lineDiffSeed 0 l) _ zero zero zero zero 1 true Diff.blank
      lsh := _, hsh := _, damp := _ } = _
  simp only [ms2s_zero, hz2c_zero, hdecay, hseed, Diff.deriveAll_blank, Line.update, lineJitter_zero hvec,
    lineDelay_zero hvec, hgain]
  rw [htap]
  rfl

/-! ### Closed units -/

/-- The one-poles at reset (10_state.md R61). -/
theorem OnePole.derive_reset :
    (OnePole.blank true).derive Transc.reference ⟨0x473B8000⟩ ⟨0x41A00000⟩ =
      { OnePole.blank true with cutoff := ⟨0x41A00000⟩, a1 := ⟨0x3F7F56E4⟩, b0 := ⟨0x3B291C00⟩ } ∧
    (OnePole.blank false).derive Transc.reference ⟨0x473B8000⟩ ⟨0x469C4000⟩ =
      { OnePole.blank false with cutoff := ⟨0x469C4000⟩, a1 := ⟨0x3E3870B0⟩, b0 := ⟨0x3F51E3D4⟩ } := by
  decide +kernel

/-- BQX at reset (10_state.md R62). -/
theorem Biquad.derive_reset_bqx :
    (Biquad.blank .lp6).derive Transc.reference ⟨0x473B8000⟩ .lp6 ⟨0x447A0000⟩ zero ⟨0x3F3504F3⟩ =
      { Biquad.blank .lp6 with freq := ⟨0x447A0000⟩, q := ⟨0x3F3504F3⟩, b0 := ⟨0x3DFB4720⟩, a1 := ⟨0xBF60971C⟩ } := by
  decide +kernel

/-- The low shelves of the lines at reset (10_state.md R62). -/
theorem Biquad.derive_reset_lsh :
    (Biquad.blank .lsh).derive Transc.reference ⟨0x473B8000⟩ .lsh ⟨0x41A00000⟩ zero F32.q0 =
      { Biquad.blank .lsh with
        freq := ⟨0x41A00000⟩, q := ⟨0x3F3504F3⟩
        b0 := ⟨0x3F800000⟩, b1 := ⟨0xBFFF86AE⟩, b2 := ⟨0x3F7F0DCF⟩, a1 := ⟨0xBFFF86AE⟩, a2 := ⟨0x3F7F0DCF⟩ } := by
  decide +kernel

/-- The high shelves of the lines at reset (10_state.md R62). -/
theorem Biquad.derive_reset_hsh :
    (Biquad.blank .hsh).derive Transc.reference ⟨0x473B8000⟩ .hsh ⟨0x469C4000⟩ zero F32.q0 =
      { Biquad.blank .hsh with
        freq := ⟨0x469C4000⟩, q := ⟨0x3F3504F3⟩
        b0 := ⟨0x3F800000⟩, b1 := ⟨0x3FA3CB01⟩, b2 := ⟨0x3EF486FD⟩, a1 := ⟨0x3FA3CB01⟩, a2 := ⟨0x3EF486FD⟩ } := by
  decide +kernel

/-- PRE at reset (10_state.md R64). -/
theorem Tap.refresh_reset_pre :
    Tap.refresh Config.nMd { Tap.blank with
      sd := clampi (ms2s ⟨0x473B8000⟩ zero).trunc 1 (Config.nMd - 2), amt := zero, rate := zero } = Tap.blank := by
  decide +kernel

/-- The multi-tap of channel k at reset. -/
def Mt.atReset (k : Chan) : Mt :=
  (Mt.blank.reseed Transc.reference 0 (crossSeed k zero)).derive Transc.reference ⟨0x473B8000⟩ 1 zero zero

/-- The multi-tap's length and its one active tap at reset (10_state.md R66; 43_multitap.md R362). -/
theorem Mt.atReset_tap (k : Chan) :
    (Mt.atReset k).len = ⟨0x3F800000⟩ ∧ (Mt.atReset k).idx.getD 0 7 = 0 ∧
      (Mt.atReset k).w.getD 0 ⟨0x00000000⟩ = if k = .L then ⟨0x3F6407CB⟩ else ⟨0xBF53BDF1⟩ := by
  cases k <;> decide +kernel

/-! ### The channel -/

/-- Every line of a blank channel is blank. -/
theorem Channel.blank_line (l : Fin 12) : Channel.blank.lines.get l = Line.blank := Twelve.get_ofFn _ l

/-- Line l after reset. The clear finds no samples in a line that was derived from the blank one. -/
theorem Channel.reset_line (k : Chan) (l : Fin 12) : (Channel.reset Transc.reference k).lines.get l =
    { gain := ⟨0x358637BD⟩, fb := { cells := [], rd := 0, level := 0 }
      mdly := { Tap.blank with sd := 2, da := 2, db := 3 }
      dif := Diff.blank.reseed (BitVec.ofNat 32 (l.val * 0x9E3779B9)) (crossSeed k zero)
      lsh := { Biquad.blank .lsh with
        freq := ⟨0x41A00000⟩, q := ⟨0x3F3504F3⟩
        b0 := ⟨0x3F800000⟩, b1 := ⟨0xBFFF86AE⟩, b2 := ⟨0x3F7F0DCF⟩, a1 := ⟨0xBFFF86AE⟩, a2 := ⟨0x3F7F0DCF⟩ }
      hsh := { Biquad.blank .hsh with
        freq := ⟨0x469C4000⟩, q := ⟨0x3F3504F3⟩
        b0 := ⟨0x3F800000⟩, b1 := ⟨0x3FA3CB01⟩, b2 := ⟨0x3EF486FD⟩, a1 := ⟨0x3FA3CB01⟩, a2 := ⟨0x3EF486FD⟩ }
      damp := { OnePole.blank false with
        cutoff := ⟨0x469C4000⟩, a1 := ⟨0x3E3870B0⟩, b0 := ⟨0x3F51E3D4⟩ } } := by
  obtain ⟨d, hd, hreset⟩ := Channel.reset_eq Transc.reference k
  have hline := hd.line l
  rw [Channel.blank_line] at hline
  rw [hreset, Channel.clearAll, Twelve.get_map, hline.trans (Line.deriveAll_blank k l), Biquad.derive_reset_lsh,
    Biquad.derive_reset_hsh, OnePole.derive_reset.2]
  rfl

/-- The multi-tap after reset: derived from the blank one, and cleared. -/
theorem Channel.reset_mt (k : Chan) : (Channel.reset Transc.reference k).mt = (Mt.atReset k).clear := by
  obtain ⟨d, hd, hreset⟩ := Channel.reset_eq Transc.reference k
  rw [hreset, Channel.clearAll_mt, hd.mt]
  rfl

/-- The channel's filters after reset (10_state.md R61, R62). -/
theorem Channel.reset_filters (k : Chan) :
    (Channel.reset Transc.reference k).hpc = { OnePole.blank true with
      cutoff := ⟨0x41A00000⟩, a1 := ⟨0x3F7F56E4⟩, b0 := ⟨0x3B291C00⟩ } ∧
    (Channel.reset Transc.reference k).lpc = { OnePole.blank false with
      cutoff := ⟨0x469C4000⟩, a1 := ⟨0x3E3870B0⟩, b0 := ⟨0x3F51E3D4⟩ } ∧
    (Channel.reset Transc.reference k).bqx = { Biquad.blank .lp6 with
      freq := ⟨0x447A0000⟩, q := ⟨0x3F3504F3⟩, b0 := ⟨0x3DFB4720⟩, a1 := ⟨0xBF60971C⟩ } := by
  obtain ⟨d, hd, hreset⟩ := Channel.reset_eq Transc.reference k
  simp only [hreset, Channel.clearAll, hd.hpc.trans OnePole.derive_reset.1, hd.lpc.trans OnePole.derive_reset.2,
    (hd.bqx .lp6 rfl).trans Biquad.derive_reset_bqx]
  exact ⟨rfl, rfl, rfl⟩

/-- PRE after reset (10_state.md R64). -/
theorem Channel.reset_pre (k : Chan) : (Channel.reset Transc.reference k).pre = Tap.blank := by
  obtain ⟨d, hd, hreset⟩ := Channel.reset_eq Transc.reference k
  rw [hreset, Channel.clearAll, hd.pre.trans Tap.refresh_reset_pre]
  rfl

/-- ED after reset (10_state.md R65). -/
theorem Channel.reset_ed (k : Chan) :
    (Channel.reset Transc.reference k).ed = Diff.blank.reseed 0 (crossSeed k zero) := by
  obtain ⟨d, hd, hreset⟩ := Channel.reset_eq Transc.reference k
  rw [hreset, Channel.clearAll, hd.ed.trans (Diff.deriveAll_blank k 0)]
  rfl

/-- The channel's own derived state after reset (10_state.md R68). -/
theorem Channel.reset_chan (k : Chan) :
    (Channel.reset Transc.reference k).cs = crossSeed k zero ∧
    (Channel.reset Transc.reference k).nomLine = zero ∧
    (Channel.reset Transc.reference k).decaySamples = one ∧
    (Channel.reset Transc.reference k).lineVec = generateX 0 36 (crossSeed k zero) := by
  obtain ⟨d, hd, hreset⟩ := Channel.reset_eq Transc.reference k
  rw [hreset]
  exact ⟨hd.cs, hd.nomLine.trans ms2s_zero, hd.decaySamples.trans (by decide +kernel), hd.lineVec⟩

/-- Every diffuser after reset is a blank one, reseeded with the channel's CS. -/
theorem Channel.reset_diffs (k : Chan) {c : Channel} (hc : c = Channel.reset Transc.reference k) :
    ∀ d ∈ c.ed :: (List.finRange 12).map (fun l => (c.lines.get l).dif),
      ∃ seed, d = Diff.blank.reseed seed (crossSeed k zero) := by
  intro d hd
  subst hc
  rcases List.mem_cons.1 hd with rfl | hd
  · exact ⟨0, Channel.reset_ed k⟩
  · obtain ⟨l, -, rfl⟩ := List.mem_map.1 hd
    exact ⟨BitVec.ofNat 32 (l.val * 0x9E3779B9), by rw [Channel.reset_line]⟩

end Sys2Proof.Machine
end

section
open Sys2Proof Sys2Proof.Machine

/-- Settles O60, unit by unit: the closed units are computed, the diffusers are blank ones with their seed, CS and
vector, the lines hold the floor of the line delay, and the multi-tap is reseeded and derived. -/
theorem resetUnits : Obligations.ResetUnits := by
  unfold Obligations.ResetUnits
  rintro k c rfl
  obtain ⟨hhpc, hlpc, hbqx⟩ := Channel.reset_filters k
  obtain ⟨hcs, hnomLine, hdecay, hlineVec⟩ := Channel.reset_chan k
  obtain ⟨hlen, hidx, hw⟩ := Mt.atReset_tap k
  refine ⟨hhpc, hlpc, hbqx, fun l => ?_, Channel.reset_pre k, ?_, fun d hd => ?_, ?_⟩
  · rw [Channel.reset_line]
    exact ⟨rfl, rfl, rfl, rfl, rfl, rfl, rfl⟩
  · rw [Channel.reset_ed]
    rfl
  · obtain ⟨seed, rfl⟩ := Channel.reset_diffs k rfl d hd
    rw [hcs]
    exact ⟨rfl, rfl, rfl, rfl, rfl, rfl, rfl, rfl, fun s => Twelve.get_ofFn _ s⟩
  · rw [hcs, hnomLine, hdecay, hlineVec, Channel.reset_mt]
    exact ⟨rfl, rfl, rfl, hlen, rfl, rfl, rfl, rfl, rfl, hidx, hw, crossSeed_reset k, rfl, rfl, rfl⟩
end

section
/-!
What stands at the head of the command FIFO (30_encoding.md R163, R167): a whole command, the beginning of one, or an
illegal word.
-/

namespace Sys2Proof

/-- A word is the command word of its opcode and its other fields. -/
theorem headWord_of_opcode {w : Word} {n : Nat} (h : (opField w).toNat = n) :
    headWord (BitVec.ofNat 6 n) (chField w) (selField w) (nField w) = w := by
  rw [← h, BitVec.ofNat_toNat, BitVec.setWidth_eq, headWord_fields]

/-- The words the decoder takes are the words of the command it answers. -/
theorem eq_encode_of_decode {ws rest : List Word} {i : Instr} (h : decode ws = .ok (i, rest)) :
    ws = encode i ++ rest := by
  cases ws with
  | nil => simp [decode] at h
  | cons w ws =>
    simp only [decode, decodeHead] at h
    split at h <;> rename_i ho
    case h_19 => cases h
    all_goals
      have hw := headWord_of_opcode ho
      simp only [operand1_eq_ok, operand2_eq_ok, Except.ok.injEq, Prod.mk.injEq] at h
      grind [encode]

/-- Operand words are missing only if there are fewer than the command takes. -/
theorem operand1_eq_incomplete {f : Word → Instr} {ws : List Word} :
    operand1 f ws = .error .incomplete ↔ ws.length < 1 := by
  cases ws <;> simp [operand1]

theorem operand2_eq_incomplete {f : Word → Word → Instr} {ws : List Word} :
    operand2 f ws = .error .incomplete ↔ ws.length < 2 := by
  match ws with
  | [] => simp [operand2]
  | [_] => simp [operand2]
  | _ :: _ :: _ => simp [operand2]

/-- The decoder waits only while words of the command are missing. -/
theorem length_of_decode_incomplete {w : Word} {ws : List Word} (h : decode (w :: ws) = .error .incomplete) :
    (w :: ws).length < opLen (opField w) := by
  simp only [decode, decodeHead] at h
  rw [List.length_cons]
  split at h <;> rename_i ho <;>
    simp only [operand1_eq_incomplete, operand2_eq_incomplete, reduceCtorEq, Except.error.injEq] at h <;>
    simp only [opLen, ho] <;> omega

/-- The decoder refuses a word for an illegal opcode only. -/
theorem illegalOp_of_decode {ws : List Word} {w : Word} (h : decode ws = .error (.illegalOp w)) :
    Machine.illegalOp (Machine.opOf w) ∧ ∃ rest, ws = w :: rest := by
  cases ws with
  | nil => simp [decode] at h
  | cons v ws =>
    simp only [decode, decodeHead] at h
    split at h
    case h_19 =>
      cases h
      refine ⟨?_, ws, rfl⟩
      rw [Machine.illegalOp, Machine.opOf, ← opField_toNat]
      grind
    all_goals simp at h

end Sys2Proof

namespace Sys2Proof.Machine

/-- An illegal opcode takes one word (30_encoding.md R163). -/
theorem lengthOfOp_illegal {op : Nat} (h : illegalOp op) : lengthOfOp op = 1 := by
  unfold illegalOp at h
  unfold lengthOfOp
  rw [if_neg (by omega), if_neg (by omega)]

/-- An illegal opcode pushes no response. -/
theorem pushesResponse_illegal {w : Word} (h : illegalOp (opOf w)) : pushesResponse (opField w) = false := by
  rw [illegalOp, opOf, ← opField_toNat] at h
  unfold pushesResponse
  split <;> first | rfl | omega

/-- The length of a command's words is the length its first word's opcode gives (30_encoding.md R163). -/
theorem lengthOfOp_headOf (i : Instr) : lengthOfOp (opOf (headOf i)) = wordsOf i := by
  rw [← opLen_eq, opLen_headOf]

/-- What the core's turn finds (10_state.md R47, 30_encoding.md R163, R167). -/
theorem State.fetch_cases (s : State) :
    s.fetch = .idle ∨
      (∃ w rest, s.fetch = .illegal w ∧ illegalOp (opOf w) ∧ s.cmdFifo = w :: rest) ∨
      ∃ i rest, s.fetch = .run i ∧ s.cmdFifo = encode i ++ rest := by
  unfold State.fetch
  split
  · exact .inl rfl
  · split
    · rename_i i rest h
      exact .inr (.inr ⟨i, rest, rfl, eq_encode_of_decode h⟩)
    · exact .inl rfl
    · exact .inl rfl
    · rename_i w h
      obtain ⟨hw, rest, hs⟩ := illegalOp_of_decode h
      exact .inr (.inl ⟨w, rest, rfl, hw, hs⟩)

/-- What a turn of the core does: nothing, the error path of an illegal word, or the command at the head of the FIFO. -/
theorem coreStep_cases {s t : State} (h : coreStep s = .next t) :
    t = s ∨
      (∃ w rest, illegalOp (opOf w) ∧ s.cmdFifo = w :: rest ∧ t = s.raiseError .illegalOp w 1) ∨
      ∃ i rest, s.cmdFifo = encode i ++ rest ∧ exec i s = .next t := by
  unfold coreStep at h
  obtain hf | ⟨w, rest, hf, hw, hs⟩ | ⟨i, rest, hf, hs⟩ := s.fetch_cases <;> rw [hf] at h
  · cases h
    exact .inl rfl
  · cases h
    exact .inr (.inl ⟨w, rest, hw, hs, rfl⟩)
  · exact .inr (.inr ⟨i, rest, hs, h⟩)

/-- What a step does: a turn of the core, or one host access. -/
theorem step_cases {s t : State} (h : step s = .next t) :
    ∃ rest, coreStep { s with script := rest } = .next t ∨
      ∃ a, hostAccess Config.transc a { s with script := rest } = .next t := by
  unfold step at h
  split at h
  · rename_i hs
    exact ⟨[], .inl (by rw [← hs]; exact h)⟩
  · exact ⟨_, .inl h⟩
  · exact ⟨_, .inr ⟨_, h⟩⟩

end Sys2Proof.Machine
end

section
/-!
What a command can do, said once (60_exceptions.md R540, R545; 45_control.md R451): it stalls, it takes the error path, or
it makes its change and its words are consumed. The frames and the invariants below go through this.
-/

namespace Sys2Proof.Machine

/-- Command i, with what its checks resolved, takes the state s to u; its words are still to be consumed. -/
inductive Executes : Instr → State → State → Prop
  | nop {ch sel n s} : Executes (.nop ch sel n) s s
  | sync {ch sel n s} : Executes (.sync ch sel n) s ((s.pushRsp (n.setWidth 32)).raiseIrq .sync)
  | wreg {ch sel n value r v s} (h : wregCheck ch sel n value = .ok (r, v)) :
    Executes (.wreg ch sel n value) s (s.writeReg Config.transc ch r v)
  | rreg {ch sel n k r s} (h : rregCheck ch sel n = .ok (k, r)) :
    Executes (.rreg ch sel n) s (s.pushRsp (s.readReg k r))
  | setfs {ch sel n value fs s} (h : setfsCheck ch sel n value = .ok fs) :
    Executes (.setfs ch sel n value) s (s.setRate Config.transc fs)
  | clear {ch sel n u s} (h : clearCheck ch sel n = .ok u) :
    Executes (.clear ch sel n) s (s.onChannels ch (fun _ c => c.clearUnit u))
  | proc {ch sel n k a b s} (h : procCheck ch sel n = .ok k) (ha : s.loadFrom .inL 0 k = some a)
    (hb : s.loadFrom .inR 0 k = some b) : Executes (.proc ch sel n) s (s.procBlock Config.transc a b)
  | rngseed {ch sel n seed s} : Executes (.rngseed ch sel n seed) s { s with x := seed }
  | rngu {ch sel n s} : Executes (.rngu ch sel n) s (s.drawRng (fun v => v))
  | rngi {ch sel n s} : Executes (.rngi ch sel n) s (s.drawRng int31)
  | rngf {ch sel n s} : Executes (.rngf ch sel n) s (s.drawRng (fun v => (unitFloat v).bits))
  | rngb {ch sel n s} : Executes (.rngb ch sel n) s (s.drawRng (fun v => (bipolarFloat v).bits))
  | vgen {ch sel n seed k s} (h : vgenCheck ch sel n = .ok k) :
    Executes (.vgen ch sel n seed) s (State.storeFrom .vec 0 (generate seed k) s)
  | vgenx {ch sel n seed cs k x s} (h : vgenxCheck ch sel n cs = .ok (k, x)) :
    Executes (.vgenx ch sel n seed cs) s (State.storeFrom .vec 0 (generateX seed k x) s)
  | bqresp {ch sel n freq k u f s} (h : bqrespCheck ch sel n freq = .ok (k, u, f)) :
    Executes (.bqresp ch sel n freq) s (s.pushRsp (((s.chan k).biquad u).resp Config.transc s.glob.fs f).bits)
  | uproc {ch sel n c u k x s} (h : uprocCheck ch sel n = .ok (c, u, k)) (hx : s.loadFrom c.input 0 k = some x) :
    Executes (.uproc ch sel n) s (s.runUnit Config.transc c u x)
  | rder {ch sel n r s} (h : rderCheck ch sel n = .ok r) : Executes (.rder ch sel n) s (s.pushRsp (s.readRef r))
  | wder {ch sel n value r s} (h : wderCheck ch sel n value = .ok r) :
    Executes (.wder ch sel n value) s (s.writeRef ch r)

/-- Command i past its stall takes s to t: by the error path, or by its change and the consumption of its words. -/
def Completes (i : Instr) (s t : State) : Prop :=
  (∃ c, instrError i = some c ∧ t = s.raiseError c (headOf i) (wordsOf i)) ∨
    (instrError i = none ∧ ∃ u, Executes i s u ∧ t = u.consume (wordsOf i))

/-- A command behind its check completes, if it does with what the check resolves. -/
theorem completes_of_checked {α : Type} {i : Instr} {s t : State} {r : Except Cause α} {go : α → Result State}
    (h : checked s (headOf i) (wordsOf i) r go = .next t) (hi : instrError i = causeOf r)
    (hgo : ∀ a, r = .ok a → go a = .next t → ∃ u, Executes i s u ∧ t = u.consume (wordsOf i)) : Completes i s t := by
  obtain ⟨c, hr, rfl⟩ | ⟨a, hr, h⟩ := checked_cases h
  · exact .inl ⟨c, by rw [hi, hr]; rfl, rfl⟩
  · exact .inr ⟨by rw [hi, hr]; rfl, hgo a hr h⟩

/-- A command without a stall, whose check is followed by one next state. -/
theorem completes_of_check {α : Type} {i : Instr} {s t : State} {r : Except Cause α} {f : α → State}
    (h : checked s (headOf i) (wordsOf i) r (fun a => .next ((f a).consume (wordsOf i))) = .next t)
    (hi : instrError i = causeOf r) (hf : ∀ a, r = .ok a → Executes i s (f a)) : Completes i s t :=
  completes_of_checked h hi (fun a hr h => ⟨f a, hf a hr, by cases h; rfl⟩)

/-- What a command that answers a next state does: it stalls, or it completes. -/
theorem exec_cases {i : Instr} {s t : State} (h : exec i s = .next t) :
    (responds i = true ∧ 64 ≤ s.rspFifo.length ∧ t = s) ∨
      ((responds i = true → s.rspFifo.length < 64) ∧ Completes i s t) := by
  have stall : ∀ {go : Result State}, responds i = true → whenRoom s go = .next t →
      (go = .next t → Completes i s t) →
      (responds i = true ∧ 64 ≤ s.rspFifo.length ∧ t = s) ∨
        ((responds i = true → s.rspFifo.length < 64) ∧ Completes i s t) := by
    intro go hr h hc
    obtain ⟨hf, ht⟩ | ⟨hl, hgo⟩ := whenRoom_cases h
    · exact .inl ⟨hr, hf, ht⟩
    · exact .inr ⟨fun _ => hl, hc hgo⟩
  cases i with
  | nop ch sel n => exact .inr ⟨nofun, completes_of_check h rfl (fun _ _ => .nop)⟩
  | sync ch sel n => exact stall rfl h (fun h => completes_of_check h rfl (fun _ _ => .sync))
  | wreg ch sel n v => exact .inr ⟨nofun, completes_of_check h rfl (fun _ hr => .wreg hr)⟩
  | rreg ch sel n => exact stall rfl h (fun h => completes_of_check h rfl (fun _ hr => .rreg hr))
  | setfs ch sel n v => exact .inr ⟨nofun, completes_of_check h rfl (fun _ hr => .setfs hr)⟩
  | clear ch sel n => exact .inr ⟨nofun, completes_of_check h rfl (fun _ hr => .clear hr)⟩
  | proc ch sel n =>
    refine .inr ⟨nofun, completes_of_checked h rfl (fun k hk hgo => ?_)⟩
    split at hgo
    · rename_i a b ha hb
      cases hgo
      exact ⟨_, .proc hk ha hb, rfl⟩
    · cases hgo
  | rngseed ch sel n v => exact .inr ⟨nofun, completes_of_check h rfl (fun _ _ => .rngseed)⟩
  | rngu ch sel n => exact stall rfl h (fun h => completes_of_check h rfl (fun _ _ => .rngu))
  | rngi ch sel n => exact stall rfl h (fun h => completes_of_check h rfl (fun _ _ => .rngi))
  | rngf ch sel n => exact stall rfl h (fun h => completes_of_check h rfl (fun _ _ => .rngf))
  | rngb ch sel n => exact stall rfl h (fun h => completes_of_check h rfl (fun _ _ => .rngb))
  | vgen ch sel n v => exact .inr ⟨nofun, completes_of_check h rfl (fun _ hr => .vgen hr)⟩
  | vgenx ch sel n v u => exact .inr ⟨nofun, completes_of_check h rfl (fun _ hr => .vgenx hr)⟩
  | bqresp ch sel n v => exact stall rfl h (fun h => completes_of_check h rfl (fun _ hr => .bqresp hr))
  | uproc ch sel n =>
    refine .inr ⟨nofun, completes_of_checked h rfl (fun p hp hgo => ?_)⟩
    split at hgo
    · rename_i x hx
      cases hgo
      exact ⟨_, .uproc hp hx, rfl⟩
    · cases hgo
  | rder ch sel n => exact stall rfl h (fun h => completes_of_check h rfl (fun _ hr => .rder hr))
  | wder ch sel n v => exact .inr ⟨nofun, completes_of_check h rfl (fun _ hr => .wder hr)⟩

/-- What holds of s, of its error path, and after the change of command i when the words are consumed, holds after
command i. -/
theorem exec_keeps {P : State → Prop} {i : Instr} {s t : State} (hs : P s)
    (herr : ∀ c w len, P (s.raiseError c w len))
    (hrun : ∀ u, (responds i = true → s.rspFifo.length < 64) → Executes i s u → P u)
    (hcons : ∀ u len, P u → P (u.consume len)) (h : exec i s = .next t) : P t := by
  obtain ⟨-, -, rfl⟩ | ⟨hl, ⟨c, -, rfl⟩ | ⟨-, u, hu, rfl⟩⟩ := exec_cases h
  · exact hs
  · exact herr c _ _
  · exact hcons u _ (hrun u hl hu)

/-- A command whose check refuses it takes the error path, in every state with room for its response. -/
theorem exec_of_instrError {i : Instr} {c : Cause} {s : State} (h : instrError i = some c)
    (hl : responds i = true → s.rspFifo.length < 64) : exec i s = .next (s.raiseError c (headOf i) (wordsOf i)) := by
  have refused : ∀ {α : Type} {r : Except Cause α} (go : α → Result State), causeOf r = some c →
      checked s (headOf i) (wordsOf i) r go = .next (s.raiseError c (headOf i) (wordsOf i)) := by
    intro α r go hr
    rw [causeOf_eq_some.1 hr, checked_error]
  cases i with
  | nop ch sel n => exact refused _ h
  | sync ch sel n => exact (whenRoom_room (hl rfl)).trans (refused _ h)
  | wreg ch sel n v => exact refused _ h
  | rreg ch sel n => exact (whenRoom_room (hl rfl)).trans (refused _ h)
  | setfs ch sel n v => exact refused _ h
  | clear ch sel n => exact refused _ h
  | proc ch sel n => exact refused _ h
  | rngseed ch sel n v => exact refused _ h
  | rngu ch sel n => exact (whenRoom_room (hl rfl)).trans (refused _ h)
  | rngi ch sel n => exact (whenRoom_room (hl rfl)).trans (refused _ h)
  | rngf ch sel n => exact (whenRoom_room (hl rfl)).trans (refused _ h)
  | rngb ch sel n => exact (whenRoom_room (hl rfl)).trans (refused _ h)
  | vgen ch sel n v => exact refused _ h
  | vgenx ch sel n v u => exact refused _ h
  | bqresp ch sel n v => exact (whenRoom_room (hl rfl)).trans (refused _ h)
  | uproc ch sel n => exact refused _ h
  | rder ch sel n => exact (whenRoom_room (hl rfl)).trans (refused _ h)
  | wder ch sel n v => exact refused _ h

/-- A cause that the command's own words give is the cause it is refused with (60_exceptions.md R540, R545). -/
theorem refuses_of_instrError {i : Instr} {c : Cause} (h : instrError i = some c) : Refuses i c := by
  intro s rest hs hl
  rw [exec_of_instrError h hl, State.raiseError_eq hs (length_encode_eq i)]

end Sys2Proof.Machine
end

section
/-!
What a command leaves unchanged (10_state.md R46-R49, R51, R70, R71): first each operation, then every command.
-/

namespace Sys2Proof.Machine

/-! ### The operations -/

/-- The part of the state that a command's change leaves alone, whatever the command is: IE, HALT, the error record, CP,
the command FIFO and the model's own fields. -/
def State.core (s u : State) : State :=
  { s with ip := u.ip, rspFifo := u.rspFifo, glob := u.glob, chL := u.chL, chR := u.chR, x := u.x, mem := u.mem,
           written := u.written }

theorem State.setChan_core (s : State) (k : Chan) (c : Channel) : (s.setChan k c).core s = s := by
  cases k <;> rfl

theorem State.onChannels_core (s : State) (m : BitVec 2) (f : Chan → Channel → Channel) :
    (s.onChannels m f).core s = s := by
  rw [State.onChannels_eq]
  rfl

theorem State.storeFrom_core {r : Region} {k : Nat} {vs : List F32} {s u : State} (h : u.core s = s) :
    (State.storeFrom r k vs u).core s = s := by
  have he := congrArg (fun t : State => t.core s) (State.storeFrom_eq r k vs u)
  exact he.trans h

theorem State.writeReg_core (T : Transc) (s : State) (m : BitVec 2) (r : Reg) (v : Word) :
    (s.writeReg T m r v).core s = s := by
  cases r with
  | glob g => rfl
  | chan c => exact s.onChannels_core m _

theorem State.writeRef_core (s : State) (m : BitVec 2) (r : WderRef) : (s.writeRef m r).core s = s := by
  cases r with
  | rng v => rfl
  | unit f v => exact s.onChannels_core m _

/-- The change of a command keeps the core part of the state. -/
theorem Executes.core {i : Instr} {s u : State} (h : Executes i s u) : u.core s = s := by
  cases h with
  | wreg => exact s.writeReg_core _ _ _ _
  | clear => exact s.onChannels_core _ _
  | proc => exact State.storeFrom_core (State.storeFrom_core rfl)
  | vgen => exact State.storeFrom_core rfl
  | vgenx => exact State.storeFrom_core rfl
  | uproc => exact State.storeFrom_core (s.setChan_core _ _)
  | wder => exact s.writeRef_core _ _
  | _ => rfl

section
variable {i : Instr} {s u : State} (h : Executes i s u)
include h

theorem Executes.ie : u.ie = s.ie := (congrArg State.ie h.core :)
theorem Executes.halt : u.halt = s.halt := (congrArg State.halt h.core :)
theorem Executes.errCause : u.errCause = s.errCause := (congrArg State.errCause h.core :)
theorem Executes.errCmd : u.errCmd = s.errCmd := (congrArg State.errCmd h.core :)
theorem Executes.errCp : u.errCp = s.errCp := (congrArg State.errCp h.core :)
theorem Executes.cp : u.cp = s.cp := (congrArg State.cp h.core :)
theorem Executes.cmdFifo : u.cmdFifo = s.cmdFifo := (congrArg State.cmdFifo h.core :)
theorem Executes.script : u.script = s.script := (congrArg State.script h.core :)
theorem Executes.hostReads : u.hostReads = s.hostReads := (congrArg State.hostReads h.core :)
theorem Executes.draws : u.draws = s.draws := (congrArg State.draws h.core :)
theorem Executes.cmdLoss : u.cmdLoss = s.cmdLoss := (congrArg State.cmdLoss h.core :)

end

end Sys2Proof.Machine
end

section
/-!
What a command may change, part by part: IP, the response FIFO, X, the memory, the registers, the channels
(10_state.md R46-R51, R70, R71).
-/

namespace Sys2Proof.Machine

/-! ### The operations -/

section
variable (T : Transc) (s : State) (m : BitVec 2) (v : Word)

@[simp] theorem State.writeReg_ip (r : Reg) : (s.writeReg T m r v).ip = s.ip := by
  cases r <;> simp [State.writeReg]
@[simp] theorem State.writeReg_rspFifo (r : Reg) : (s.writeReg T m r v).rspFifo = s.rspFifo := by
  cases r <;> simp [State.writeReg]
@[simp] theorem State.writeReg_x (r : Reg) : (s.writeReg T m r v).x = s.x := by
  cases r <;> simp [State.writeReg]
@[simp] theorem State.writeReg_mem (r : Reg) : (s.writeReg T m r v).mem = s.mem := by
  cases r <;> simp [State.writeReg]
@[simp] theorem State.writeReg_written (r : Reg) : (s.writeReg T m r v).written = s.written := by
  cases r <;> simp [State.writeReg]

@[simp] theorem State.writeRef_ip (r : WderRef) : (s.writeRef m r).ip = s.ip := by
  cases r <;> simp [State.writeRef]
@[simp] theorem State.writeRef_rspFifo (r : WderRef) : (s.writeRef m r).rspFifo = s.rspFifo := by
  cases r <;> simp [State.writeRef]
@[simp] theorem State.writeRef_glob (r : WderRef) : (s.writeRef m r).glob = s.glob := by
  cases r <;> simp [State.writeRef]
@[simp] theorem State.writeRef_mem (r : WderRef) : (s.writeRef m r).mem = s.mem := by
  cases r <;> simp [State.writeRef]
@[simp] theorem State.writeRef_written (r : WderRef) : (s.writeRef m r).written = s.written := by
  cases r <;> simp [State.writeRef]

variable (a b : List F32)

@[simp] theorem State.procBlock_ip : (s.procBlock T a b).ip = s.ip := by simp [State.procBlock]
@[simp] theorem State.procBlock_rspFifo : (s.procBlock T a b).rspFifo = s.rspFifo := by simp [State.procBlock]
@[simp] theorem State.procBlock_glob : (s.procBlock T a b).glob = s.glob := by simp [State.procBlock]
@[simp] theorem State.procBlock_x : (s.procBlock T a b).x = s.x := by simp [State.procBlock]
@[simp] theorem State.procBlock_chL : (s.procBlock T a b).chL =
    (s.chL.block T s.glob.interpEn (crossMix s.glob.inputMix a b)).1 := by simp [State.procBlock]
@[simp] theorem State.procBlock_chR : (s.procBlock T a b).chR =
    (s.chR.block T s.glob.interpEn (crossMix s.glob.inputMix b a)).1 := by simp [State.procBlock]

variable (k : Chan) (r : UnitRef)

@[simp] theorem State.runUnit_ip : (s.runUnit T k r a).ip = s.ip := by simp [State.runUnit]
@[simp] theorem State.runUnit_rspFifo : (s.runUnit T k r a).rspFifo = s.rspFifo := by simp [State.runUnit]
@[simp] theorem State.runUnit_glob : (s.runUnit T k r a).glob = s.glob := by simp [State.runUnit]
@[simp] theorem State.runUnit_x : (s.runUnit T k r a).x = s.x := by simp [State.runUnit]
@[simp] theorem State.runUnit_chL : (s.runUnit T k r a).chL =
    if k = .L then ((s.chan k).runUnit T s.glob.interpEn r a).1 else s.chL := by simp [State.runUnit]
@[simp] theorem State.runUnit_chR : (s.runUnit T k r a).chR =
    if k = .R then ((s.chan k).runUnit T s.glob.interpEn r a).1 else s.chR := by simp [State.runUnit]

end

/-! ### Every command -/

/-- The bits of a stay set in a word that has them. -/
theorem bitVec_and_or_self {n : Nat} (a b : BitVec n) : a &&& (a ||| b) = a := by
  ext i hi
  simp only [BitVec.getElem_and, BitVec.getElem_or]
  grind

section
variable {i : Instr} {s u : State} (h : Executes i s u)
include h

/-- A command's change clears no IP bit. -/
theorem Executes.ip : s.ip &&& u.ip = s.ip := by
  cases h with
  | sync => exact bitVec_and_or_self _ _
  | _ => simp [State.setRate, State.drawRng]

/-- A command pushes at most one word, and only if it is one that responds. -/
theorem Executes.rspFifo :
    u.rspFifo = s.rspFifo ∨ (responds i = true ∧ ∃ v, u.rspFifo = s.rspFifo ++ [v]) := by
  cases h with
  | sync => exact .inr ⟨rfl, _, rfl⟩
  | rreg => exact .inr ⟨rfl, _, rfl⟩
  | rngu => exact .inr ⟨rfl, _, rfl⟩
  | rngi => exact .inr ⟨rfl, _, rfl⟩
  | rngf => exact .inr ⟨rfl, _, rfl⟩
  | rngb => exact .inr ⟨rfl, _, rfl⟩
  | bqresp => exact .inr ⟨rfl, _, rfl⟩
  | rder => exact .inr ⟨rfl, _, rfl⟩
  | _ => exact .inl (by simp [State.setRate])

/-- A command that stores no sample or vector words leaves the memory alone. -/
theorem Executes.mem (hi : stores i = false) : u.mem = s.mem ∧ u.written = s.written := by
  cases h with
  | proc => cases hi
  | vgen => cases hi
  | vgenx => cases hi
  | uproc => cases hi
  | _ => simp [State.setRate, State.drawRng]

/-- Every command keeps the memory and the written set in their canonical forms. -/
theorem Executes.memWf (hw : s.memWf = true) : u.memWf = true := by
  cases h with
  | proc => exact State.storeFrom_memWf _ _ _ (State.storeFrom_memWf _ _ _ hw)
  | vgen => exact State.storeFrom_memWf _ _ _ hw
  | vgenx => exact State.storeFrom_memWf _ _ _ hw
  | uproc => exact State.storeFrom_memWf _ _ _ (by simpa [State.memWf] using hw)
  | _ => simpa [State.memWf, State.setRate, State.drawRng] using hw

end

/-- A WDER that writes X names the RNG (46_diagnostic.md R504). -/
theorem eq_rngSel_of_wderCheck {ch : BitVec 2} {sel n : BitVec 12} {value v : Word}
    (h : wderCheck ch sel n value = .ok (.rng v)) : sel = 0xF00 := by
  unfold wderCheck at h
  split at h
  · rename_i hs
    exact beq_iff_eq.1 hs
  · repeat' split at h
    all_goals cases h

end Sys2Proof.Machine
end

section
/-!
What a command may do to a channel, said once (10_state.md R51, 30_encoding.md R162): only six commands change one, five of
them by a function of the channel alone, and those with a mask only the channels it selects.
-/

namespace Sys2Proof.Machine

/-! ### What the checks resolve -/

/-- A count is refused at 0 and above its limit (60_exceptions.md R541). -/
theorem countCheck_eq (n : BitVec 12) (hi : Nat) :
    countCheck n hi = if n.toNat = 0 ∨ hi < n.toNat then .error .badN else .ok n.toNat := by
  have h0 : n = 0 ↔ n.toNat = 0 := by rw [BitVec.toNat_eq]; rfl
  simp only [countCheck, Bool.or_eq_true, beq_iff_eq, decide_eq_true_eq, h0]

theorem countCheck_eq_ok {n : BitVec 12} {hi k : Nat} (h : countCheck n hi = .ok k) :
    k = n.toNat ∧ 1 ≤ k ∧ k ≤ hi := by
  rw [countCheck_eq] at h
  split at h
  · cases h
  · cases h
    exact ⟨rfl, by omega, by omega⟩

/-- PROC resolves its block length (44_fdn_channel.md R397). -/
theorem procCheck_eq_ok {ch : BitVec 2} {sel n : BitVec 12} {k : Nat} (h : procCheck ch sel n = .ok k) :
    k = n.toNat ∧ 1 ≤ k ∧ k ≤ 1024 := by
  unfold procCheck at h
  split at h
  · cases h
  · exact countCheck_eq_ok h

theorem vgenCheck_eq_ok {ch : BitVec 2} {sel n : BitVec 12} {k : Nat} (h : vgenCheck ch sel n = .ok k) :
    k = n.toNat ∧ 1 ≤ k ∧ k ≤ 1024 := by
  unfold vgenCheck at h
  split at h
  · cases h
  · exact countCheck_eq_ok h

theorem vgenxCheck_eq_ok {ch : BitVec 2} {sel n : BitVec 12} {cs : Word} {k : Nat} {x : F32}
    (h : vgenxCheck ch sel n cs = .ok (k, x)) : k = n.toNat ∧ 1 ≤ k ∧ k ≤ 1024 := by
  unfold vgenxCheck at h
  split at h
  · cases h
  · rename_i j hj
    split at h
    · cases h
    · cases h
      exact vgenCheck_eq_ok hj

/-- The mask of a command for one channel is that channel's (30_encoding.md R162). -/
theorem oneChan_eq_some {ch : BitVec 2} {c : Chan} : oneChan ch = some c ↔ ch = maskOf c := by
  revert ch
  cases c <;> decide

/-- UPROC resolves the channel of its mask and its block length (46_diagnostic.md R502). -/
theorem uprocCheck_eq_ok {ch : BitVec 2} {sel n : BitVec 12} {c : Chan} {u : UnitRef} {k : Nat}
    (h : uprocCheck ch sel n = .ok (c, u, k)) : ch = maskOf c ∧ k = n.toNat ∧ 1 ≤ k ∧ k ≤ 1024 := by
  unfold uprocCheck at h
  split at h
  · cases h
  · rename_i hc
    repeat' split at h
    all_goals cases h
    exact ⟨oneChan_eq_some.1 hc, countCheck_eq_ok ‹_›⟩

/-- WREG stores a word that is legal for its register (10_state.md R50), and never in FS. -/
theorem wregCheck_eq_ok {ch : BitVec 2} {sel n : BitVec 12} {value v : Word} {r : Reg}
    (h : wregCheck ch sel n value = .ok (r, v)) : r ≠ .glob .fs ∧ r.type.legal v = true := by
  unfold wregCheck at h
  repeat' split at h
  all_goals cases h
  exact ⟨‹_›, (RegType.accept_stored r.type_ordered ‹_›).1⟩

/-- WDER stores in a unit's field what that field accepts (46_diagnostic.md R504). -/
theorem wderCheck_eq_ok {ch : BitVec 2} {sel n : BitVec 12} {value v : Word} {f : FieldRef}
    (h : wderCheck ch sel n value = .ok (.unit f v)) : f.writeType.accept value = .ok v := by
  unfold wderCheck at h
  repeat' split at h
  all_goals cases h
  assumption

/-! ### One channel -/

/-- Each channel a mask selects is replaced by f of it, and no other. -/
theorem State.chan_onChannels (s : State) (m : BitVec 2) (f : Chan → Channel → Channel) (k : Chan) :
    (s.onChannels m f).chan k = if maskOf k &&& m = 0 then s.chan k else f k (s.chan k) := by
  cases k <;> simp only [State.chan, State.onChannels_chL, State.onChannels_chR, maskOf_and_eq_zero]
  · cases h : m[0] <;> simp [BitVec.getLsbD_eq_getElem, h]
  · cases h : m[1] <;> simp [BitVec.getLsbD_eq_getElem, h]

theorem maskOf_and_self (k : Chan) : maskOf k &&& maskOf k ≠ 0 := by
  cases k <;> decide

theorem State.chan_runUnit (T : Transc) (s : State) (k j : Chan) (r : UnitRef) (x : List F32) :
    (s.runUnit T k r x).chan j = if j = k then ((s.chan k).runUnit T s.glob.interpEn r x).1 else s.chan j := by
  cases k <;> cases j <;> simp [State.chan]

@[simp] theorem crossMix_length (m : F32) (a b : List F32) : (crossMix m a b).length = min a.length b.length := by
  simp [crossMix]

/-- What command i may make of channel k. -/
inductive Channel.Changed : Instr → Chan → Channel → Channel → Prop
  | same {i k c} : Changed i k c c
  | writeReg {ch sel n value k c fs r v} (hm : maskOf k &&& ch ≠ 0) (hv : r.type.legal v = true) :
    Changed (.wreg ch sel n value) k c (c.writeReg Config.transc fs k r v)
  | setRate {ch sel n value k c fs} :
    Changed (.setfs ch sel n value) k c (c.deriveAll Config.transc fs k).clearAll
  | clearUnit {ch sel n k c u} (hm : maskOf k &&& ch ≠ 0) : Changed (.clear ch sel n) k c (c.clearUnit u)
  | block {ch sel n k c interp x} (hx : x.length ≤ 1024) :
    Changed (.proc ch sel n) k c (c.block Config.transc interp x).1
  | runUnit {ch sel n k c interp u x} (hm : maskOf k &&& ch ≠ 0) (hx : x.length ≤ 1024) :
    Changed (.uproc ch sel n) k c (c.runUnit Config.transc interp u x).1
  | writeField {ch sel n value k c f v} (hm : maskOf k &&& ch ≠ 0) (hv : f.writeType.accept value = .ok v) :
    Changed (.wder ch sel n value) k c (c.writeField f v)

/-- Every command changes a channel in one of these ways. -/
theorem Executes.changed {i : Instr} {s u : State} (h : Executes i s u) (k : Chan) :
    Channel.Changed i k (s.chan k) (u.chan k) := by
  cases h with
  | wreg h =>
    rename_i r v
    cases r with
    | glob g => cases k <;> exact .same
    | chan c =>
      rw [State.writeReg, State.chan_onChannels]
      split
      · exact .same
      · exact .writeReg ‹_› (wregCheck_eq_ok h).2
  | setfs => cases k <;> exact .setRate
  | clear =>
    rw [State.chan_onChannels]
    split
    · exact .same
    · exact .clearUnit ‹_›
  | proc h ha hb =>
    obtain ⟨-, -, hk⟩ := procCheck_eq_ok h
    have hla := (State.loadFrom_some ha).1
    have hlb := (State.loadFrom_some hb).1
    cases k <;> simp only [State.chan, State.procBlock_chL, State.procBlock_chR] <;>
      exact .block (by rw [crossMix_length]; omega)
  | uproc h hx =>
    obtain ⟨rfl, -, -, hk⟩ := uprocCheck_eq_ok h
    have hl := (State.loadFrom_some hx).1
    rw [State.chan_runUnit]
    split
    · rename_i hk'
      rw [← hk']
      exact .runUnit (hk' ▸ maskOf_and_self k) (by omega)
    · exact .same
  | wder h =>
    rename_i r
    cases r with
    | rng v => cases k <;> exact .same
    | unit f v =>
      rw [State.writeRef, State.chan_onChannels]
      split
      · exact .same
      · exact .writeField ‹_› (wderCheck_eq_ok h)
  | vgen => cases k <;> simp only [State.chan, State.storeFrom_chL, State.storeFrom_chR] <;> exact .same
  | vgenx => cases k <;> simp only [State.chan, State.storeFrom_chL, State.storeFrom_chR] <;> exact .same
  | _ => cases k <;> exact .same

end Sys2Proof.Machine
end

section
/-!
The control registers are read as they were last stored, and stay legal (10_state.md R50, R51): only WREG and SETFS store
any.
-/

namespace Sys2Proof.Machine

/-! ### The register file -/

/-- A legal word is stored as it is. -/
theorem ChanRegs.get_set_self (r : ChanRegs) {c : CReg} {w : Word} (h : c.type.legal w = true) :
    (r.set c w).get c = w := by
  have hb : ∀ w : Word, RegType.bool.legal w = true → boolWord (w != 0) = w := by
    intro w h
    simp only [RegType.legal, Bool.or_eq_true, beq_iff_eq] at h
    rcases h with rfl | rfl <;> rfl
  cases c <;> first | rfl | exact hb w h

/-- A store in one register leaves every other alone. -/
theorem ChanRegs.get_set_ne (r : ChanRegs) (w : Word) {c d : CReg} (h : d ≠ c) : (r.set c w).get d = r.get d := by
  cases c <;> cases d <;> first | rfl | exact absurd rfl h

theorem GlobRegs.get_set_self (g : GlobRegs) {r : GReg} {w : Word} (h : r.type.legal w = true) :
    (g.set r w).get r = w := by
  cases r with
  | fs => rfl
  | inputMix => rfl
  | interpEn =>
    simp only [GReg.type, RegType.legal, Bool.or_eq_true, beq_iff_eq] at h
    rcases h with rfl | rfl <;> rfl

theorem GlobRegs.get_set_ne (g : GlobRegs) (w : Word) {r q : GReg} (h : q ≠ r) : (g.set r w).get q = g.get q := by
  cases r <;> cases q <;> first | rfl | exact absurd rfl h

theorem mem_allCRegs (c : CReg) : c ∈ allCRegs := by
  cases c <;> decide

/-- Legality, register by register. -/
theorem ChanRegs.legal_iff {r : ChanRegs} : r.legal = true ↔ ∀ c : CReg, c.type.legal (r.get c) = true := by
  simp only [ChanRegs.legal, List.all_eq_true]
  exact ⟨fun h c => h c (mem_allCRegs c), fun h c _ => h c⟩

theorem GlobRegs.legal_iff {g : GlobRegs} : g.legal = true ↔ ∀ r : GReg, r.type.legal (g.get r) = true := by
  simp only [GlobRegs.legal, List.all_eq_true]
  exact ⟨fun h r => h r (by cases r <;> decide), fun h r _ => h r⟩

/-- Storing a legal word keeps a register file legal. -/
theorem ChanRegs.set_legal {r : ChanRegs} (h : r.legal = true) {c : CReg} {w : Word} (hw : c.type.legal w = true) :
    (r.set c w).legal = true := by
  rw [ChanRegs.legal_iff] at h ⊢
  intro d
  by_cases hd : d = c
  · rw [hd, ChanRegs.get_set_self r hw]
    exact hw
  · rw [ChanRegs.get_set_ne r w hd]
    exact h d

theorem GlobRegs.set_legal {g : GlobRegs} (h : g.legal = true) {r : GReg} {w : Word} (hw : r.type.legal w = true) :
    (g.set r w).legal = true := by
  rw [GlobRegs.legal_iff] at h ⊢
  intro q
  by_cases hq : q = r
  · rw [hq, GlobRegs.get_set_self g hw]
    exact hw
  · rw [GlobRegs.get_set_ne g w hq]
    exact h q

/-! ### The registers of a channel -/

section
variable (T : Transc) (fs : F32) (k : Chan) (c : Channel)

@[simp] theorem Channel.deriveAll_regs : (c.deriveAll T fs k).regs = c.regs := (Channel.derived_deriveAll T fs k c).regs
@[simp] theorem Channel.clearAll_regs : c.clearAll.regs = c.regs := rfl
@[simp] theorem Channel.enableClear_regs (t : EnableTarget) : (c.enableClear t).regs = c.regs := by cases t <;> rfl

@[simp] theorem Channel.writeEffect_regs (e : Effect) (b : Bool) : (c.writeEffect T fs k e b).regs = c.regs := by
  by_cases h : ∃ t, e = .enable t
  · obtain ⟨t, rfl⟩ := h
    cases b
    · rfl
    · exact c.enableClear_regs t
  · exact (Channel.derived_writeEffect T fs k e b c (fun t ht => h ⟨t, ht⟩)).regs

@[simp] theorem Channel.writeReg_regs (r : CReg) (v : Word) : (c.writeReg T fs k r v).regs = c.regs.set r v :=
  Channel.writeEffect_regs T fs k _ _ _

@[simp] theorem Channel.setApf_regs (d : DiffRef) (j : Fin 12) (u : Apf) : (c.setApf d j u).regs = c.regs :=
  c.setDiff_regs d _

@[simp] theorem Channel.clearUnit_regs (u : UnitRef) : (c.clearUnit u).regs = c.regs := by
  cases u <;> simp [Channel.clearUnit, Channel.setLine]

@[simp] theorem Channel.writeField_regs (f : FieldRef) (v : Word) : (c.writeField f v).regs = c.regs := by
  cases f <;> simp [Channel.writeField, Channel.setLine]

@[simp] theorem Channel.block_regs (i : Bool) (x : List F32) : (c.block T i x).1.regs = c.regs := rfl

@[simp] theorem Channel.runUnit_regs (i : Bool) (u : UnitRef) (x : List F32) : (c.runUnit T i u x).1.regs = c.regs := by
  cases u <;> simp [Channel.runUnit, Channel.setLine]

end

/-- Only WREG stores in a channel's registers. -/
theorem Channel.Changed.regs {i : Instr} {k : Chan} {c d : Channel} (h : Channel.Changed i k c d)
    (hi : ∀ ch sel n v, i ≠ .wreg ch sel n v) : d.regs = c.regs := by
  cases h with
  | writeReg => exact absurd rfl (hi _ _ _ _)
  | _ => simp

/-- Every command keeps a channel's registers legal. -/
theorem Channel.Changed.regs_legal {i : Instr} {k : Chan} {c d : Channel} (h : Channel.Changed i k c d)
    (hc : c.regs.legal = true) : d.regs.legal = true := by
  cases h with
  | writeReg hm hv =>
    rw [Channel.writeReg_regs]
    exact ChanRegs.set_legal hc hv
  | _ => simpa using hc

/-! ### The global registers -/

/-- SETFS stores a legal FS (10_state.md R53). -/
theorem setfsCheck_legal {ch : BitVec 2} {sel n : BitVec 12} {value : Word} {fs : F32}
    (h : setfsCheck ch sel n value = .ok fs) : GReg.fs.type.legal fs.bits = true := by
  unfold setfsCheck at h
  repeat' split at h
  all_goals cases h
  have hb := F32.clamp_bounds (v := ⟨value⟩) (lo := Config.fsMin) (hi := Config.fsMax) (by decide) (by decide)
    (by decide +kernel)
  simp only [GReg.type, RegType.legal, Bool.and_eq_true, F32.ge_iff]
  exact ⟨⟨hb.1, by decide, hb.2.1⟩, by decide, hb.1, hb.2.2⟩

section
variable {i : Instr} {s u : State} (h : Executes i s u)
include h

/-- Only WREG and SETFS store in the global registers. -/
theorem Executes.glob (hw : ∀ ch sel n v, i ≠ .wreg ch sel n v) (hf : ∀ ch sel n v, i ≠ .setfs ch sel n v) :
    u.glob = s.glob := by
  cases h with
  | wreg => exact absurd rfl (hw _ _ _ _)
  | setfs => exact absurd rfl (hf _ _ _ _)
  | _ => simp [State.drawRng]

/-- WREG stores in INPUT_MIX, in INTERP_EN or in no global register: FS is SETFS's. -/
theorem Executes.glob_fs (hf : ∀ ch sel n v, i ≠ .setfs ch sel n v) : u.glob.fs = s.glob.fs := by
  cases h with
  | wreg h =>
    rename_i r v
    cases r with
    | chan c => rw [State.writeReg, State.onChannels_glob]
    | glob g =>
      cases g with
      | fs => exact absurd rfl (wregCheck_eq_ok h).1
      | inputMix => rfl
      | interpEn => rfl
  | setfs => exact absurd rfl (hf _ _ _ _)
  | _ => simp [State.drawRng]

/-- Every command keeps the global registers legal. -/
theorem Executes.glob_legal (hs : s.glob.legal = true) : u.glob.legal = true := by
  cases h with
  | wreg h =>
    rename_i r v
    cases r with
    | chan c => rwa [State.writeReg, State.onChannels_glob]
    | glob g => exact GlobRegs.set_legal hs (wregCheck_eq_ok h).2
  | setfs h => exact GlobRegs.set_legal hs (r := .fs) (setfsCheck_legal h)
  | _ => simpa [State.drawRng] using hs

/-- Every command keeps every control register legal. -/
theorem Executes.regsLegal (hs : s.regsLegal = true) : u.regsLegal = true := by
  simp only [State.regsLegal, Bool.and_eq_true] at hs ⊢
  obtain ⟨⟨hg, hl⟩, hr⟩ := hs
  exact ⟨⟨h.glob_legal hg, (h.changed .L).regs_legal hl⟩, (h.changed .R).regs_legal hr⟩

end

end Sys2Proof.Machine
end

section
/-!
The unit invariants (10_state.md R63-R67; 44_fdn_channel.md R398, R402): every change a command makes of a channel keeps
them.
-/

namespace Sys2Proof.Machine

/-- The unit invariants of a tap whose buffer has n cells. -/
def Tap.sound (n : Nat) (t : Tap) : Prop := t.inRange n = true ∧ t.buf.wf = true

/-- The unit invariants of the multi-tap. -/
def Mt.sound (m : Mt) : Prop := m.widx < Config.nMt ∧ m.buf.wf = true

/-- The invariants of a line that belong to no unit of their own: its gain and its FIFO. -/
def Line.loopSound (l : Line) : Prop := F32.ge l.gain F32.one = false ∧ l.fb.sound ∧ l.fb.level ≤ 1024

/-- The unit invariants of a channel, unit by unit. -/
theorem Channel.sound_iff_units {c : Channel} : c.sound = true ↔
    (∀ r, (c.mdly r).sound Config.nMd) ∧ c.mt.sound ∧ (∀ r, (c.diff r).sound) ∧ ∀ l, (c.lines.get l).loopSound := by
  rw [Channel.sound_iff]
  constructor
  · rintro ⟨hp, hpb, hm, hmb, he, hl⟩
    refine ⟨fun r => ?_, ⟨hm, hmb⟩, fun r => ?_, fun l => ?_⟩
    · cases r with
      | pre => exact ⟨hp, hpb⟩
      | line l =>
        obtain ⟨-, -, -, ht, hb, -⟩ := hl l
        exact ⟨ht, hb⟩
    · cases r with
      | ed => exact he
      | line l =>
        obtain ⟨-, -, -, -, -, hd⟩ := hl l
        exact hd
    · obtain ⟨hg, hf, hv, -⟩ := hl l
      exact ⟨hg, hf, hv⟩
  · rintro ⟨ht, ⟨hm, hmb⟩, hd, hl⟩
    refine ⟨(ht .pre).1, (ht .pre).2, hm, hmb, hd .ed, fun l => ?_⟩
    obtain ⟨hg, hf, hv⟩ := hl l
    exact ⟨hg, hf, hv, (ht (.line l)).1, (ht (.line l)).2, hd (.line l)⟩

/-! ### Replacing one unit -/

section
variable {c : Channel} (h : c.sound = true)
include h

theorem Channel.setOnePole_sound (r : OnePoleRef) (u : OnePole) : (c.setOnePole r u).sound = true := by
  simpa [Channel.sound_iff_units, Line.loopSound] using h

theorem Channel.setBiquad_sound (r : BiquadRef) (u : Biquad) : (c.setBiquad r u).sound = true := by
  simpa [Channel.sound_iff_units, Line.loopSound] using h

theorem Channel.setMdly_sound (r : MdlyRef) {u : Tap} (hu : u.sound Config.nMd) : (c.setMdly r u).sound = true := by
  obtain ⟨ht, hrest⟩ := Channel.sound_iff_units.1 h
  refine Channel.sound_iff_units.2 ⟨fun q => ?_, by simpa [Line.loopSound] using hrest⟩
  rw [Channel.mdly_setMdly]
  split
  · exact hu
  · exact ht q

theorem Channel.setDiff_sound (r : DiffRef) {u : Diff} (hu : u.sound) : (c.setDiff r u).sound = true := by
  obtain ⟨ht, hm, hd, hl⟩ := Channel.sound_iff_units.1 h
  refine Channel.sound_iff_units.2 ⟨by simpa using ht, by simpa using hm, fun q => ?_,
    by simpa [Line.loopSound] using hl⟩
  rw [Channel.diff_setDiff]
  split
  · exact hu
  · exact hd q

theorem Channel.setApf_sound (r : DiffRef) (j : Fin 12) {u : Apf} (hu : u.sound = true) :
    (c.setApf r j u).sound = true := by
  obtain ⟨-, -, hd, -⟩ := Channel.sound_iff_units.1 h
  refine Channel.setDiff_sound h r (fun k => ?_)
  rw [Twelve.get_set]
  split
  · exact hu
  · exact hd r k

theorem Channel.setMt_sound {m : Mt} (hm : m.sound) : Channel.sound { c with mt := m } = true := by
  obtain ⟨hp, hpb, -, -, he, hl⟩ := Channel.sound_iff.1 h
  exact Channel.sound_iff.2 ⟨hp, hpb, hm.1, hm.2, he, hl⟩

theorem Channel.line_sound (l : Fin 12) : (c.lines.get l).sound := (Channel.sound_iff.1 h).2.2.2.2.2 l

theorem Channel.setLines_sound {ls : Twelve Line} (hl : ∀ l, (ls.get l).sound) :
    Channel.sound { c with lines := ls } = true := by
  obtain ⟨hp, hpb, hm, hmb, he, -⟩ := Channel.sound_iff.1 h
  exact Channel.sound_iff.2 ⟨hp, hpb, hm, hmb, he, hl⟩

theorem Channel.setLine_sound (l : Fin 12) {u : Line} (hu : u.sound) : (c.setLine l u).sound = true := by
  refine Channel.setLines_sound h (fun k => ?_)
  rw [Twelve.get_set]
  split
  · exact hu
  · exact Channel.line_sound h k

theorem Channel.mapLines_sound {f : Line → Line} (hf : ∀ l : Line, l.sound → (f l).sound) :
    (c.mapLines f).sound = true := by
  refine Channel.setLines_sound h (fun l => ?_)
  rw [Twelve.get_map]
  exact hf _ (Channel.line_sound h l)

end

/-! ### Clearing -/

theorem Tap.clear_sound {n : Nat} {t : Tap} (h : t.sound n) : t.clear.sound n := ⟨h.1, rfl⟩

theorem Apf.clear_sound {u : Apf} (h : u.sound = true) : u.clear.sound = true := by
  simp only [Apf.sound, Bool.and_eq_true] at h ⊢
  exact ⟨h.1, rfl⟩

theorem Mt.clear_sound {m : Mt} (h : m.sound) : m.clear.sound := ⟨h.1, rfl⟩

theorem Line.sound_dif {l : Line} (h : l.sound) {d : Diff} (hd : d.sound) : Line.sound { l with dif := d } := by
  obtain ⟨hg, hf, hv, ht, hb, -⟩ := h
  exact ⟨hg, hf, hv, ht, hb, hd⟩

/-- A clear of one unit keeps the unit invariants (45_control.md R462). -/
theorem Channel.clearUnit_sound {c : Channel} (h : c.sound = true) (u : UnitRef) : (c.clearUnit u).sound = true := by
  obtain ⟨ht, hm, hd, -⟩ := Channel.sound_iff_units.1 h
  cases u with
  | onePole r => exact Channel.setOnePole_sound h r _
  | biquad r => exact Channel.setBiquad_sound h r _
  | apf d j => exact Channel.setApf_sound h d j (Apf.clear_sound (hd d j))
  | mdly r => exact Channel.setMdly_sound h r (Tap.clear_sound (ht r))
  | diff r => exact Channel.setDiff_sound h r (Diff.clear_sound (hd r))
  | mt => exact Channel.setMt_sound h (Mt.clear_sound hm)
  | line l => exact Channel.setLine_sound h l (Line.clear_sound h l)
  | chan => exact Channel.clearAll_sound h

/-- What a changed enable clears keeps the unit invariants (45_control.md R457). -/
theorem Channel.enableClear_sound {c : Channel} (h : c.sound = true) (t : EnableTarget) :
    (c.enableClear t).sound = true := by
  cases t with
  | hpc => exact Channel.setOnePole_sound h .hpc _
  | lpc => exact Channel.setOnePole_sound h .lpc _
  | mt => exact Channel.clearUnit_sound h .mt
  | ed => exact Channel.clearUnit_sound h (.diff .ed)
  | lineDif => exact Channel.mapLines_sound h (fun l hl => Line.sound_dif hl (Diff.clear_sound hl.2.2.2.2.2))
  | lineLsh => exact Channel.mapLines_sound h (fun l hl => hl)
  | lineHsh => exact Channel.mapLines_sound h (fun l hl => hl)
  | lineDamp => exact Channel.mapLines_sound h (fun l hl => hl)

/-- A write effect keeps the unit invariants (45_control.md R456, R457). -/
theorem Channel.writeEffect_sound {c : Channel} (h : c.sound = true) (T : Transc) (fs : F32) (k : Chan) (e : Effect)
    (b : Bool) : (c.writeEffect T fs k e b).sound = true := by
  by_cases he : ∃ t, e = .enable t
  · obtain ⟨t, rfl⟩ := he
    cases b
    · exact h
    · exact Channel.enableClear_sound h t
  · exact (Channel.derived_writeEffect T fs k e b c (fun t ht => he ⟨t, ht⟩)).sound h

/-! ### Running one unit -/

/-- A run of one unit on at most 1024 samples keeps the unit invariants (46_diagnostic.md R502). -/
theorem Channel.runUnit_sound {c : Channel} (h : c.sound = true) (T : Transc) (i : Bool) (u : UnitRef) {x : List F32}
    (hx : x.length ≤ 1024) : (c.runUnit T i u x).1.sound = true := by
  obtain ⟨ht, hm, hd, -⟩ := Channel.sound_iff_units.1 h
  cases u with
  | onePole r => exact Channel.setOnePole_sound h r _
  | biquad r => exact Channel.setBiquad_sound h r _
  | apf d j =>
    exact Channel.setApf_sound h d j (runBlock_keeps (P := fun u : Apf => u.sound = true)
      (fun _ _ => Apf.step_keeps T i) (hd d j) x)
  | mdly r =>
    exact Channel.setMdly_sound h r (runBlock_keeps (P := Tap.sound Config.nMd)
      (fun _ _ hs => Tap.step_sound T i hs.1 hs.2) (ht r) x)
  | diff r =>
    exact Channel.setDiff_sound h r (runBlock_keeps (P := Diff.sound) (fun _ _ => Diff.step_sound T i) (hd r) x)
  | mt =>
    exact Channel.setMt_sound h (runBlock_keeps (P := Mt.sound)
      (fun _ _ hs => ⟨(Mt.step_sound hs.2).2, (Mt.step_sound hs.2).1⟩) hm x)
  | line l => exact Channel.setLine_sound h l (Line.block_sound T i c.regs _ x (Channel.line_sound h l) hx)
  | chan => exact Channel.block_sound T i c x h hx

/-! ### Writing one field -/

/-- An accepted U word lies in its range (46_diagnostic.md R501). -/
theorem WriteType.accept_unsigned {lo hi : Nat} {w v : Word} (h : (WriteType.unsigned lo hi).accept w = .ok v)
    (hl : lo ≤ hi) (hh : hi < 2 ^ 32) : lo ≤ v.toNat ∧ v.toNat ≤ hi := by
  cases h
  have hb := clampi_bounds (i := w.toNat) hl
  rw [BitVec.toNat_ofNat, Nat.mod_eq_of_lt (by omega)]
  exact hb

/-- Writing a field of a tap keeps its invariants: SD and COUNTER are clamped, and what else is written has no range
(46_diagnostic.md R501, R504). -/
theorem Tap.setField_sound {n : Nat} (hn : tapLength n) {t : Tap} (h : t.sound n) {f : TapField} {w v : Word}
    (hv : (f.writeType n).accept w = .ok v) : (t.setField n f v).sound n := by
  obtain ⟨hr, hb⟩ := h
  obtain ⟨hw, h1, h2, hc, hd⟩ := Tap.inRange_iff.1 hr
  have hlen : 1 ≤ n - 2 ∧ n - 2 < 2 ^ 32 := by
    unfold tapLength Config.nAp Config.nMd at hn
    omega
  cases f with
  | sd =>
    obtain ⟨hlo, hhi⟩ := WriteType.accept_unsigned hv hlen.1 hlen.2
    exact ⟨Tap.refresh_inRange hn hw hlo hhi hc, by rw [Tap.setField, Tap.refresh_buf]; exact hb⟩
  | amt => exact ⟨Tap.refresh_inRange hn hw h1 h2 hc, by rw [Tap.setField, Tap.refresh_buf]; exact hb⟩
  | rate => exact ⟨Tap.refresh_inRange hn hw h1 h2 hc, by rw [Tap.setField, Tap.refresh_buf]; exact hb⟩
  | phase => exact ⟨hr, hb⟩
  | counter =>
    obtain ⟨-, hhi⟩ := WriteType.accept_unsigned hv (by decide) (by decide)
    exact ⟨Tap.inRange_iff.2 ⟨hw, h1, h2, hhi, hd⟩, hb⟩
  | mod => exact ⟨hr, hb⟩
  | da => exact ⟨hr, hb⟩
  | db => exact ⟨hr, hb⟩
  | ga => exact ⟨hr, hb⟩
  | gb => exact ⟨hr, hb⟩
  | widx => exact ⟨hr, hb⟩

theorem Apf.setField_sound {u : Apf} (h : u.sound = true) {d : DiffRef} {j : Fin 12} {f : ApfField} {w v : Word}
    (hv : (FieldRef.apf d j f).writeType.accept w = .ok v) : (u.setField f v).sound = true := by
  cases f with
  | tap f =>
    simp only [Apf.sound, Bool.and_eq_true] at h ⊢
    exact Tap.setField_sound (.inl rfl) h hv
  | g => exact h
  | modEn => exact h

/-- An accepted line gain is below 1 (46_diagnostic.md R501, 44_fdn_channel.md R402). -/
theorem not_ge_one_of_accept {w v : Word} (h : (WriteType.float F32.zero F32.belowOne).accept w = .ok v) :
    F32.ge ⟨v⟩ F32.one = false := by
  simp only [WriteType.accept] at h
  split at h
  · cases h
  · cases h
    have hlt : F32.belowOne.val < F32.one.val := by decide +kernel
    obtain ⟨-, -, hle⟩ := F32.clamp_bounds (v := ⟨w⟩) (lo := F32.zero) (hi := F32.belowOne) (by decide) (by decide)
      (by decide +kernel)
    rw [Bool.eq_false_iff, ne_eq, F32.ge_iff]
    exact fun hge => absurd (hge.2.2.trans hle) (not_le.2 hlt)

/-- A WDER keeps the unit invariants (46_diagnostic.md R504). -/
theorem Channel.writeField_sound {c : Channel} (h : c.sound = true) {f : FieldRef} {w v : Word}
    (hv : f.writeType.accept w = .ok v) : (c.writeField f v).sound = true := by
  obtain ⟨ht, -, hd, -⟩ := Channel.sound_iff_units.1 h
  cases f with
  | onePole r g => exact Channel.setOnePole_sound h r _
  | biquad r g => exact Channel.setBiquad_sound h r _
  | apf d j f => exact Channel.setApf_sound h d j (Apf.setField_sound (hd d j) hv)
  | mdly r f => exact Channel.setMdly_sound h r (Tap.setField_sound (.inr rfl) (ht r) hv)
  | diff r f => exact h
  | mt f => exact h
  | line l f =>
    refine Channel.setLine_sound h l ?_
    obtain ⟨-, hrest⟩ := Channel.line_sound h l
    cases f with
    | gain => exact ⟨not_ge_one_of_accept hv, hrest⟩
    | fbLevel => exact Channel.line_sound h l
    | fbRdPtr => exact Channel.line_sound h l
  | chan f => exact h

/-! ### Every command -/

/-- Every command keeps the unit invariants of a channel. -/
theorem Channel.Changed.sound {i : Instr} {k : Chan} {c d : Channel} (h : Channel.Changed i k c d)
    (hc : c.sound = true) : d.sound = true := by
  cases h with
  | same => exact hc
  | writeReg => exact Channel.writeEffect_sound (by exact hc) _ _ _ _ _
  | setRate => exact Channel.clearAll_sound ((Channel.derived_deriveAll _ _ _ _).sound hc)
  | clearUnit => exact Channel.clearUnit_sound hc _
  | block hx => exact Channel.block_sound _ _ _ _ hc hx
  | runUnit hm hx => exact Channel.runUnit_sound hc _ _ _ hx
  | writeField hm hv => exact Channel.writeField_sound hc hv

/-- Every command keeps the unit invariants of both channels. -/
theorem Executes.unitsSound {i : Instr} {s u : State} (h : Executes i s u) (hs : s.unitsSound = true) :
    u.unitsSound = true := by
  simp only [State.unitsSound, Bool.and_eq_true] at hs ⊢
  exact ⟨(h.changed .L).sound hs.1, (h.changed .R).sound hs.2⟩

end Sys2Proof.Machine
end

section
/-!
The active counts of the multi-tap and the diffusers (10_state.md R65, R66): a command leaves each as it is or takes it
from its register.
-/

namespace Sys2Proof.Machine

/-- Every COUNT of d is the one of c, or what the register of c that sets it holds (42_allpass_delay.md R312, R315, R316;
43_multitap.md R362). -/
structure Channel.CountsFrom (c d : Channel) : Prop where
  mt : d.mt.count = c.mt.count ∨ d.mt.count = c.regs.tapCount.toNat
  ed : d.ed.count = c.ed.count ∨ d.ed.count = c.regs.edifCount.toNat
  dif : ∀ l, (d.lines.get l).dif.count = (c.lines.get l).dif.count ∨
    (d.lines.get l).dif.count = c.regs.lateDifCount.toNat

/-- A legal register holds a count in its range (10_state.md R53). -/
theorem ChanRegs.legal_counts {r : ChanRegs} (h : r.legal = true) :
    (1 ≤ r.tapCount.toNat ∧ r.tapCount.toNat ≤ 256) ∧ (1 ≤ r.edifCount.toNat ∧ r.edifCount.toNat ≤ 12) ∧
      1 ≤ r.lateDifCount.toNat ∧ r.lateDifCount.toNat ≤ 12 := by
  have hr := ChanRegs.legal_iff.1 h
  have ht := hr .tapCount
  have he := hr .edifCount
  have hl := hr .lateDifCount
  simp only [CReg.type, RegType.legal, ChanRegs.get, Bool.and_eq_true, decide_eq_true_eq] at ht he hl
  exact ⟨ht, he, hl⟩

/-- The ranges of the counts, one by one. -/
theorem Channel.countsInRange_iff {c : Channel} : c.countsInRange = true ↔
    (1 ≤ c.mt.count ∧ c.mt.count ≤ 256) ∧ (1 ≤ c.ed.count ∧ c.ed.count ≤ 12) ∧
      ∀ l, 1 ≤ (c.lines.get l).dif.count ∧ (c.lines.get l).dif.count ≤ 12 := by
  simp only [Channel.countsInRange, Twelve.all_iff, Bool.and_eq_true, decide_eq_true_eq, and_assoc]

/-- Counts taken from counts in their ranges and from legal registers are in their ranges. -/
theorem Channel.CountsFrom.countsInRange {c d : Channel} (h : Channel.CountsFrom c d) (hr : c.regs.legal = true)
    (hc : c.countsInRange = true) : d.countsInRange = true := by
  obtain ⟨hm, he, hl⟩ := Channel.countsInRange_iff.1 hc
  obtain ⟨rm, re, rl⟩ := ChanRegs.legal_counts hr
  refine Channel.countsInRange_iff.2 ⟨?_, ?_, fun l => ?_⟩
  · obtain h | h := h.mt <;> rw [h] <;> assumption
  · obtain h | h := h.ed <;> rw [h] <;> assumption
  · obtain h | h := h.dif l <;> rw [h]
    · exact hl l
    · exact rl

theorem Channel.CountsFrom.refl (c : Channel) : Channel.CountsFrom c c := ⟨.inl rfl, .inl rfl, fun _ => .inl rfl⟩

/-! ### Runs -/

@[simp] theorem Diff.step_count (T : Transc) (i : Bool) (d : Diff) (x : F32) : (d.step T i x).1.count = d.count := rfl

@[simp] theorem Mt.step_count (m : Mt) (x : F32) : (m.step x).1.count = m.count := rfl

theorem Line.block_count (T : Transc) (i : Bool) (r : ChanRegs) (l : Line) (x : List F32) :
    (l.block T i r x).1.dif.count = l.dif.count :=
  runIf_keeps (P := fun d : Diff => d.count = l.dif.count) (fun _ _ h => h) rfl _ _

/-- A channel block keeps the counts. -/
theorem Channel.block_counts (T : Transc) (i : Bool) (c : Channel) (x : List F32) :
    Channel.CountsFrom c (c.block T i x).1 := by
  refine ⟨.inl ?_, .inl ?_, fun l => .inl ?_⟩
  · exact runIf_keeps (P := fun m : Mt => m.count = c.mt.count) (fun _ _ h => h) rfl _ _
  · exact runIf_keeps (P := fun d : Diff => d.count = c.ed.count) (fun _ _ h => h) rfl _ _
  · by_cases hl : l ∈ firstTwelve c.regs.lateLineCount.toNat
    · exact (congrArg (fun l : Line => l.dif.count)
        (sumLines_get_of_mem T i c.regs _ (firstTwelve_nodup _) c.lines _ hl)).trans (Line.block_count _ _ _ _ _)
    · exact congrArg (fun l : Line => l.dif.count) (sumLines_get T i c.regs _ _ c.lines _ hl)

/-! ### Replacing one unit -/

section
variable (c : Channel)

theorem Channel.countsFrom_diff {d : Channel} (hm : d.mt.count = c.mt.count)
    (hd : ∀ r, (d.diff r).count = (c.diff r).count) : Channel.CountsFrom c d :=
  ⟨.inl hm, .inl (hd .ed), fun l => .inl (hd (.line l))⟩

theorem Channel.setOnePole_counts (r : OnePoleRef) (u : OnePole) : Channel.CountsFrom c (c.setOnePole r u) :=
  c.countsFrom_diff (by simp) (by simp)

theorem Channel.setBiquad_counts (r : BiquadRef) (u : Biquad) : Channel.CountsFrom c (c.setBiquad r u) :=
  c.countsFrom_diff (by simp) (by simp)

theorem Channel.setMdly_counts (r : MdlyRef) (u : Tap) : Channel.CountsFrom c (c.setMdly r u) :=
  c.countsFrom_diff (by simp) (by simp)

theorem Channel.setDiff_counts (r : DiffRef) {u : Diff} (hu : u.count = (c.diff r).count) :
    Channel.CountsFrom c (c.setDiff r u) := by
  refine c.countsFrom_diff (by simp) (fun q => ?_)
  rw [Channel.diff_setDiff]
  split
  · rw [hu, ‹q = r›]
  · rfl

theorem Channel.setLine_counts (l : Fin 12) {u : Line} (hu : u.dif.count = (c.lines.get l).dif.count) :
    Channel.CountsFrom c (c.setLine l u) := by
  refine ⟨.inl rfl, .inl rfl, fun k => .inl ?_⟩
  simp only [Channel.setLine, Twelve.get_set]
  split
  · rw [hu, ‹k = l›]
  · rfl

theorem Channel.setMt_counts {m : Mt} (hm : m.count = c.mt.count) : Channel.CountsFrom c { c with mt := m } :=
  ⟨.inl hm, .inl rfl, fun _ => .inl rfl⟩

theorem Channel.mapLines_counts {f : Line → Line} (hf : ∀ l : Line, (f l).dif.count = l.dif.count) :
    Channel.CountsFrom c (c.mapLines f) :=
  ⟨.inl rfl, .inl rfl, fun l => .inl (by rw [Channel.mapLines, Twelve.get_map, hf])⟩

theorem Channel.clearAll_counts : Channel.CountsFrom c c.clearAll :=
  ⟨.inl rfl, .inl rfl, fun l => .inl (by rw [Channel.clearAll, Twelve.get_map]; rfl)⟩

/-- A clear of one unit keeps the counts. -/
theorem Channel.clearUnit_counts (u : UnitRef) : Channel.CountsFrom c (c.clearUnit u) := by
  cases u with
  | onePole r => exact c.setOnePole_counts r _
  | biquad r => exact c.setBiquad_counts r _
  | apf d j => exact c.setDiff_counts d rfl
  | mdly r => exact c.setMdly_counts r _
  | diff r => exact c.setDiff_counts r rfl
  | mt => exact c.setMt_counts rfl
  | line l => exact c.setLine_counts l rfl
  | chan => exact c.clearAll_counts

/-- A run of one unit keeps the counts. -/
theorem Channel.runUnit_counts (T : Transc) (i : Bool) (u : UnitRef) (x : List F32) :
    Channel.CountsFrom c (c.runUnit T i u x).1 := by
  cases u with
  | onePole r => exact c.setOnePole_counts r _
  | biquad r => exact c.setBiquad_counts r _
  | apf d j => exact c.setDiff_counts d rfl
  | mdly r => exact c.setMdly_counts r _
  | diff r =>
    exact c.setDiff_counts r
      (runBlock_keeps (P := fun d : Diff => d.count = (c.diff r).count) (fun _ _ h => h) rfl x)
  | mt => exact c.setMt_counts (runBlock_keeps (P := fun m : Mt => m.count = c.mt.count) (fun _ _ h => h) rfl x)
  | line l => exact c.setLine_counts l (Line.block_count T i c.regs _ x)
  | chan => exact c.block_counts T i x

/-- A WDER keeps the counts: COUNT is read-only (46_diagnostic.md R501). -/
theorem Channel.writeField_counts (f : FieldRef) (v : Word) : Channel.CountsFrom c (c.writeField f v) := by
  cases f with
  | onePole r g => exact c.setOnePole_counts r _
  | biquad r g => exact c.setBiquad_counts r _
  | apf d j f => exact c.setDiff_counts d rfl
  | mdly r f => exact c.setMdly_counts r _
  | diff r f => exact .refl c
  | mt f => exact .refl c
  | line l f => exact c.setLine_counts l (by cases f <;> rfl)
  | chan f => exact .refl c

/-! ### Derivations -/

end

@[simp] theorem Diff.derive_count (T : Transc) (fs delayMs amtMs rateHz g : F32) (d : Diff) :
    (d.derive T fs delayMs amtMs rateHz g).count = d.count :=
  (congrArg Diff.count (Diff.derive_frame T fs delayMs amtMs rateHz g d) :)

@[simp] theorem Diff.reseed_count (seed : Word) (cs : F32) (d : Diff) : (d.reseed seed cs).count = d.count := by
  simp only [Diff.reseed]

theorem Line.reseedDif_count (T : Transc) (fs cs : F32) (r : ChanRegs) (i : Fin 12) (l : Line) :
    (Line.reseedDif T fs cs r i l).dif.count = l.dif.count := by
  simp only [Line.reseedDif, Line.deriveDif, Diff.derive_count, Diff.reseed_count]

/-- UpdateLines sets the plain delay and the gain of a line, and nothing else of it (44_fdn_channel.md R392). The lemmas
below go through it: the kernel must not compare an updated line with the line itself, which would evaluate the delay. -/
theorem Line.update_shape (T : Transc) (v : List F32) (nl na nr decS : F32) (i : Fin 12) (l : Line) :
    ∃ t g, Line.update T v nl na nr decS i l = { l with mdly := t, gain := g } :=
  ⟨_, _, rfl⟩

theorem Line.update_dif (T : Transc) (v : List F32) (nl na nr decS : F32) (i : Fin 12) (l : Line) :
    (Line.update T v nl na nr decS i l).dif = l.dif := by
  obtain ⟨t, g, h⟩ := Line.update_shape T v nl na nr decS i l
  rw [h]

section
variable (c : Channel)

theorem Channel.updateLines_dif (T : Transc) (fs : F32) (l : Fin 12) :
    ((c.updateLines T fs).lines.get l).dif = (c.lines.get l).dif := by
  simp only [Channel.updateLines, Twelve.get_mapIdx]
  exact Line.update_dif _ _ _ _ _ _ _ _

theorem Channel.reseedLdif_count (T : Transc) (fs : F32) (l : Fin 12) :
    ((c.reseedLdif T fs).lines.get l).dif.count = (c.lines.get l).dif.count := by
  simp only [Channel.reseedLdif, Twelve.get_mapIdx]
  exact Line.reseedDif_count _ _ _ _ _ _

theorem Channel.mapIdx_counts {f : Fin 12 → Line → Line} (h : ∀ l u, (f l u).dif.count = u.dif.count) :
    Channel.CountsFrom c { c with lines := c.lines.mapIdx f } :=
  ⟨.inl rfl, .inl rfl, fun l => .inl (by rw [Twelve.get_mapIdx, h])⟩

theorem Channel.enableClear_counts (t : EnableTarget) : Channel.CountsFrom c (c.enableClear t) := by
  cases t with
  | hpc => exact c.setOnePole_counts .hpc _
  | lpc => exact c.setOnePole_counts .lpc _
  | mt => exact c.setMt_counts rfl
  | ed => exact c.setDiff_counts .ed rfl
  | lineDif => exact c.mapLines_counts (fun _ => rfl)
  | lineLsh => exact c.mapLines_counts (fun _ => rfl)
  | lineHsh => exact c.mapLines_counts (fun _ => rfl)
  | lineDamp => exact c.mapLines_counts (fun _ => rfl)

/-- DERIVE_ALL takes every count from its register (45_control.md R455). -/
theorem Channel.deriveAll_counts (T : Transc) (fs : F32) (k : Chan) : Channel.CountsFrom c (c.deriveAll T fs k) := by
  have h := Channel.allDerived_deriveAll T fs k c
  exact ⟨.inr (by rw [h.mt]; rfl), .inr (by rw [h.ed]; rfl), fun l => .inr (by rw [h.line]; rfl)⟩

/-- A write effect keeps each count or takes it from its register (45_control.md R456). -/
theorem Channel.writeEffect_counts (T : Transc) (fs : F32) (k : Chan) (e : Effect) (b : Bool) :
    Channel.CountsFrom c (c.writeEffect T fs k e b) := by
  cases e with
  | enable t =>
    cases b
    · exact .refl c
    · exact c.enableClear_counts t
  | bqx =>
    obtain ⟨q, hq, -⟩ := Channel.deriveBqx_shape T fs c
    rw [Channel.writeEffect, hq]
    exact ⟨.inl rfl, .inl rfl, fun _ => .inl rfl⟩
  | mt => exact ⟨.inr rfl, .inl rfl, fun _ => .inl rfl⟩
  | mtSeed => exact ⟨.inr rfl, .inl rfl, fun _ => .inl rfl⟩
  | edCount => exact ⟨.inl rfl, .inr rfl, fun _ => .inl rfl⟩
  | ldif => exact c.mapLines_counts (fun _ => Diff.derive_count _ _ _ _ _ _ _)
  | ldifCount => exact ⟨.inl rfl, .inl rfl, fun l => .inr (by
      rw [Channel.writeEffect, Channel.deriveLdifCount, Channel.mapLines, Twelve.get_map]
      rfl)⟩
  | ldifG => exact c.mapLines_counts (fun _ => rfl)
  | ldifMod => exact c.mapLines_counts (fun _ => rfl)
  | ldifSeed => exact c.mapIdx_counts (fun _ _ => Line.reseedDif_count _ _ _ _ _ _)
  | lsh => exact c.mapLines_counts (fun _ => rfl)
  | hsh => exact c.mapLines_counts (fun _ => rfl)
  | damp => exact c.mapLines_counts (fun _ => rfl)
  | lines => exact ⟨.inl rfl, .inl rfl, fun l => .inl (congrArg Diff.count (c.updateLines_dif T fs l))⟩
  | xseed =>
    refine ⟨.inr rfl, .inl rfl, fun l => .inl ?_⟩
    exact (congrArg Diff.count (Channel.updateLines_dif _ T fs l)).trans (Channel.reseedLdif_count _ T fs l)
  | _ => exact ⟨.inl rfl, .inl rfl, fun _ => .inl rfl⟩

end

/-! ### Every command -/

/-- Every command keeps the counts of a channel in their ranges, while its registers are legal. -/
theorem Channel.Changed.countsInRange {i : Instr} {k : Chan} {c d : Channel} (h : Channel.Changed i k c d)
    (hr : c.regs.legal = true) (hc : c.countsInRange = true) : d.countsInRange = true := by
  cases h with
  | same => exact hc
  | writeReg hm hv =>
    exact (Channel.writeEffect_counts _ _ _ _ _ _).countsInRange (ChanRegs.set_legal hr hv) hc
  | setRate =>
    exact (Channel.clearAll_counts _).countsInRange (by simpa using hr)
      ((c.deriveAll_counts _ _ _).countsInRange hr hc)
  | clearUnit => exact (c.clearUnit_counts _).countsInRange hr hc
  | block => exact (c.block_counts _ _ _).countsInRange hr hc
  | runUnit => exact (c.runUnit_counts _ _ _ _).countsInRange hr hc
  | writeField => exact (c.writeField_counts _ _).countsInRange hr hc

/-- Every command keeps the counts of both channels in their ranges, while the registers are legal. -/
theorem Executes.countsInRange {i : Instr} {s u : State} (h : Executes i s u) (hr : s.regsLegal = true)
    (hs : s.countsInRange = true) : u.countsInRange = true := by
  simp only [State.regsLegal, State.countsInRange, Bool.and_eq_true] at hr hs ⊢
  exact ⟨(h.changed .L).countsInRange hr.1.2 hs.1, (h.changed .R).countsInRange hr.2 hs.2⟩

end Sys2Proof.Machine
end

section
/-!
What a host access can do, said once (20_memory.md R120-R126): the soft reset, a clear of IP bits, or a change that leaves
the registers and the channels alone, clears no IP bit and keeps the other invariants.
-/

namespace Sys2Proof.Machine

/-- What every host access but a soft reset and a write to IP does to the state s. -/
structure HostFrame (s t : State) : Prop where
  glob : t.glob = s.glob
  chL : t.chL = s.chL
  chR : t.chR = s.chR
  ip : s.ip &&& t.ip = s.ip
  memWf : s.memWf = true → t.memWf = true
  fifosBounded : s.fifosBounded = true → t.fifosBounded = true
  errorRecord : s.errorRecord = true → t.errorRecord = true

theorem HostFrame.refl (s : State) : HostFrame s s := ⟨rfl, rfl, rfl, BitVec.and_self, id, id, id⟩

theorem HostFrame.trans {s t u : State} (h : HostFrame s t) (g : HostFrame t u) : HostFrame s u where
  glob := g.glob.trans h.glob
  chL := g.chL.trans h.chL
  chR := g.chR.trans h.chR
  ip := by rw [← h.ip, BitVec.and_assoc, g.ip]
  memWf := g.memWf ∘ h.memWf
  fifosBounded := g.fifosBounded ∘ h.fifosBounded
  errorRecord := g.errorRecord ∘ h.errorRecord

/-- A change made only under a condition. -/
theorem HostFrame.ite {s t : State} (h : HostFrame s t) (b : Bool) : HostFrame s (if b then t else s) := by
  cases b
  · exact .refl s
  · exact h

/-- The FIFOs hold at most 256 and 64 words (10_state.md R49). -/
theorem State.fifosBounded_iff {s : State} :
    s.fifosBounded = true ↔ s.cmdFifo.length ≤ 256 ∧ s.rspFifo.length ≤ 64 := by
  unfold State.fifosBounded Config.cmdDepth Config.rspDepth
  rw [Bool.and_eq_true, decide_eq_true_iff, decide_eq_true_iff]

/-! ### The operations -/

section
variable (s : State)

theorem State.raiseIrq_frame (b : IrqBit) : HostFrame s (s.raiseIrq b) :=
  ⟨rfl, rfl, rfl, bitVec_and_or_self _ _, id, id, id⟩

theorem State.answer_frame (v : Word) : HostFrame s (s.answer v) := ⟨rfl, rfl, rfl, BitVec.and_self, id, id, id⟩

theorem State.drawWord_frame : HostFrame s s.drawWord := ⟨rfl, rfl, rfl, BitVec.and_self, id, id, id⟩

theorem State.answerResult_frame (v : Word) : HostFrame s (s.answerResult v) := by
  obtain ⟨w, d, h⟩ := s.answerResult_shape v
  rw [h]
  exact ⟨rfl, rfl, rfl, BitVec.and_self, id, id, id⟩

theorem State.answerBits_frame (mask v : Word) : HostFrame s (s.answerBits mask v) := by
  obtain ⟨w, d, h⟩ := s.answerBits_shape mask v
  rw [h]
  exact ⟨rfl, rfl, rfl, BitVec.and_self, id, id, id⟩

theorem State.noteCheck_frame : HostFrame s s.noteCheck := by
  unfold State.noteCheck
  split
  · exact ⟨rfl, rfl, rfl, BitVec.and_self, id, id, id⟩
  · exact .refl s

theorem State.recoverCmd_frame : HostFrame s s.recoverCmd := by
  unfold State.recoverCmd
  split
  · exact ⟨rfl, rfl, rfl, BitVec.and_self, id, id, id⟩
  · exact .refl s

theorem State.flushRsp_frame : HostFrame s s.flushRsp where
  glob := rfl
  chL := rfl
  chR := rfl
  ip := BitVec.and_self
  memWf := id
  fifosBounded h := State.fifosBounded_iff.2 ⟨(State.fifosBounded_iff.1 h).1, Nat.zero_le _⟩
  errorRecord := id

theorem State.flushCmd_frame : HostFrame s s.flushCmd := by
  have h : HostFrame s { s with cmdFifo := [] } :=
    ⟨rfl, rfl, rfl, BitVec.and_self, id,
      fun h => State.fifosBounded_iff.2 ⟨Nat.zero_le _, (State.fifosBounded_iff.1 h).2⟩, id⟩
  unfold State.flushCmd
  split
  · exact .refl s
  · exact h.trans (State.raiseIrq_frame _ _)

theorem State.clearError_frame : HostFrame s s.clearError :=
  ⟨rfl, rfl, rfl, BitVec.and_self, id, id, fun _ => rfl⟩

theorem State.pushCmd_frame (w : Word) : HostFrame s (s.pushCmd w) := by
  unfold State.pushCmd
  split
  · rename_i hl
    refine ⟨rfl, rfl, rfl, BitVec.and_self, id, fun h => State.fifosBounded_iff.2 ⟨?_, (State.fifosBounded_iff.1 h).2⟩,
      id⟩
    rw [List.length_append]
    exact hl
  · exact ⟨rfl, rfl, rfl, bitVec_and_or_self _ _, id, id, id⟩

theorem State.popRsp_frame : HostFrame s s.popRsp := by
  unfold State.popRsp
  split
  · exact (s.raiseIrq_frame _).trans (State.answerResult_frame _ _)
  · rename_i v rest hr
    refine HostFrame.trans (t := { s with rspFifo := rest }) ⟨rfl, rfl, rfl, BitVec.and_self, id, fun h => ?_, id⟩
      (State.answerResult_frame _ _)
    obtain ⟨hc, hl⟩ := State.fifosBounded_iff.1 h
    rw [hr, List.length_cons] at hl
    exact State.fifosBounded_iff.2 ⟨hc, by dsimp only; omega⟩

theorem State.readHostReg_frame (k : Nat) : HostFrame s (s.readHostReg k) := by
  unfold State.readHostReg
  split
  case h_3 => exact s.answerBits_frame _ _
  case h_5 => exact s.noteCheck_frame.trans (State.answerBits_frame _ _ _)
  case h_6 => exact s.popRsp_frame
  all_goals first | exact s.answer_frame _ | exact s.answerResult_frame _

theorem State.writeCtrl_frame (T : Transc) {w : Word} (h : w.getLsbD 0 = false) : HostFrame s (s.writeCtrl T w) := by
  unfold State.writeCtrl
  rw [h, if_neg Bool.false_ne_true]
  exact (((s.flushCmd_frame.ite _).trans ((State.flushRsp_frame _).ite _)).trans
    ((State.clearError_frame _).ite _)).trans ((State.recoverCmd_frame _).ite _)

theorem State.readSample_frame {t : State} {r : Region} {k : Nat} (h : s.readSample r k = .next t) :
    HostFrame s t := by
  rw [State.readSample_eq] at h
  split at h
  · cases h
  · cases h
    split
    · exact s.answer_frame _
    · exact s.drawWord_frame

theorem State.writeSample_frame {t : State} {r : Region} {k : Nat} {w : Word} (h : s.writeSample r k w = .next t) :
    HostFrame s t := by
  unfold State.writeSample at h
  split at h
  · cases h
  · cases h
    split
    · exact ⟨rfl, rfl, rfl, BitVec.and_self, State.storeWord_memWf, id, id⟩
    · exact ⟨rfl, rfl, rfl, BitVec.and_self, State.pokeWord_memWf, id, id⟩

end

/-! ### One access -/

/-- A host register is accessed as a word at its address (10_state.md R42). -/
theorem addr_of_busTarget_reg {width : Width} {a : BitVec 18} {k : Nat} (h : busTarget width a = .reg k) :
    width = .word ∧ a.toNat = 4 * k := by
  unfold busTarget at h
  split at h
  · rename_i hw
    unfold locate at h
    split at h
    · cases h
      exact ⟨hw.1, by omega⟩
    · split at h
      · cases h
      · split at h <;> cases h
  · cases h

/-- A write to a host register: the soft reset, the clear of IP bits, or a change within the frame. -/
theorem State.writeHostReg_cases (T : Transc) (s : State) (k : Nat) (w : Word) :
    (k = 3 ∧ w.getLsbD 0 = true ∧ s.writeHostReg T k w = s.softReset T) ∨
      (k = 5 ∧ s.writeHostReg T k w = s.ackIrq w) ∨ HostFrame s (s.writeHostReg T k w) := by
  unfold State.writeHostReg
  split
  · cases hw : w.getLsbD 0
    · exact .inr (.inr (s.writeCtrl_frame T hw))
    · exact .inl ⟨rfl, rfl, by rw [State.writeCtrl, if_pos hw]⟩
  · exact .inr (.inr ⟨rfl, rfl, rfl, BitVec.and_self, id, id, id⟩)
  · exact .inr (.inl ⟨rfl, rfl⟩)
  · exact .inr (.inr (s.pushCmd_frame w))
  · exact .inr (.inr (.refl s))

/-- What a host access that completes does. -/
theorem hostAccess_cases {T : Transc} {a : HostAccess} {s t : State} (h : hostAccess T a s = .next t) :
    (∃ w, w.getLsbD 0 = true ∧ a = .write .word 0x0C w ∧ t = s.softReset T) ∨
      (∃ w, a = .write .word 0x14 w ∧ t = s.ackIrq w) ∨ HostFrame s t := by
  unfold hostAccess at h
  split at h
  · split at h
    · cases h
      exact .inr (.inr (s.readHostReg_frame _))
    · exact .inr (.inr (s.readSample_frame h))
    · cases h
      exact .inr (.inr ((s.raiseIrq_frame _).trans (State.answer_frame _ _)))
  · rename_i addr w
    split at h
    · rename_i k hb
      cases h
      obtain ⟨rfl, ha⟩ := addr_of_busTarget_reg hb
      obtain ⟨rfl, hw, ht⟩ | ⟨rfl, ht⟩ | hf := s.writeHostReg_cases T k w
      · exact .inl ⟨w, hw, by rw [show addr = 0x0C from BitVec.eq_of_toNat_eq ha], ht⟩
      · exact .inr (.inl ⟨w, by rw [show addr = 0x14 from BitVec.eq_of_toNat_eq ha], ht⟩)
      · exact .inr (.inr hf)
    · exact .inr (.inr (s.writeSample_frame h))
    · cases h
      exact .inr (.inr (s.raiseIrq_frame _))

/-- What the soft reset, the clear of IP bits and the frame all keep, every host access keeps. -/
theorem hostAccess_keeps {P : State → Prop} {T : Transc} {a : HostAccess} {s t : State} (hreset : P (s.softReset T))
    (hack : ∀ w, P (s.ackIrq w)) (hframe : ∀ t, HostFrame s t → P t) (h : hostAccess T a s = .next t) : P t := by
  obtain ⟨w, -, -, rfl⟩ | ⟨w, -, rfl⟩ | hf := hostAccess_cases h
  · exact hreset
  · exact hack w
  · exact hframe t hf

end Sys2Proof.Machine
end

section
/-!
The invariants at reset and along every step (10_state.md R40-R71, 70_reset_and_hazards.md R600): what the error path, a
command's change, the consumption of its words and every host access keep, every step keeps.
-/

namespace Sys2Proof.Machine

/-! ### At reset -/

@[simp] theorem Channel.reset_regs (T : Transc) (k : Chan) : (Channel.reset T k).regs = ChanRegs.reset := by
  rw [Channel.reset, Channel.clearAll_regs, Channel.deriveAll_regs]
  rfl

/-- The reset value of every control register is legal (10_state.md R53). -/
theorem ChanRegs.reset_legal : ChanRegs.reset.legal = true := by decide +kernel

theorem GlobRegs.reset_legal : GlobRegs.reset.legal = true := by decide +kernel

theorem Channel.reset_countsInRange (T : Transc) (k : Chan) : (Channel.reset T k).countsInRange = true := by
  have hr : Channel.blank.regs.legal = true := ChanRegs.reset_legal
  refine (Channel.clearAll_counts _).countsInRange (by rw [Channel.deriveAll_regs]; exact hr) ?_
  exact (Channel.deriveAll_counts _ _ _ _).countsInRange hr (by decide)

theorem State.resetWith_regsLegal (T : Transc) : (State.resetWith T).regsLegal = true := by
  simp [State.regsLegal, State.resetWith, GlobRegs.reset_legal, ChanRegs.reset_legal]

theorem State.resetWith_unitsSound (T : Transc) : (State.resetWith T).unitsSound = true := by
  simp [State.unitsSound, State.resetWith, Channel.reset_sound]

theorem State.resetWith_countsInRange (T : Transc) : (State.resetWith T).countsInRange = true := by
  simp [State.countsInRange, State.resetWith, Channel.reset_countsInRange]

/-- A soft reset keeps the memory contents, and no word counts as written (10_state.md R45). -/
theorem State.softReset_memWf (T : Transc) {s : State} (h : s.memWf = true) : (s.softReset T).memWf = true := by
  simp only [State.memWf, Bool.and_eq_true] at h ⊢
  exact ⟨h.1, rfl⟩

/-! ### Along a step -/

/-- What every turn of the core does keeps, a turn of the core keeps. -/
theorem coreStep_keeps {P : State → Prop} {s t : State} (hs : P s) (herr : ∀ c w len, P (s.raiseError c w len))
    (hrun : ∀ i u, (responds i = true → s.rspFifo.length < 64) → Executes i s u → P u)
    (hcons : ∀ u len, P u → P (u.consume len)) (h : coreStep s = .next t) : P t := by
  obtain rfl | ⟨w, rest, -, -, rfl⟩ | ⟨i, rest, -, hi⟩ := coreStep_cases h
  · exact hs
  · exact herr _ _ _
  · exact exec_keeps hs herr (hrun i) hcons hi

/-- What the operations of both agents keep, every step keeps. -/
theorem step_keeps {P : State → Prop} (hscript : ∀ s rest, P s → P { s with script := rest })
    (herr : ∀ s c w len, P s → P (State.raiseError s c w len))
    (hrun : ∀ i s u, (responds i = true → s.rspFifo.length < 64) → Executes i s u → P s → P u)
    (hcons : ∀ s len, P s → P (State.consume s len)) (hreset : ∀ s, P s → P (State.softReset Config.transc s))
    (hack : ∀ s w, P s → P (State.ackIrq s w)) (hframe : ∀ s t, HostFrame s t → P s → P t) {s t : State} (hs : P s)
    (h : step s = .next t) : P t := by
  obtain ⟨rest, hc | ⟨a, ha⟩⟩ := step_cases h
  · have hs := hscript s rest hs
    exact coreStep_keeps hs (fun c w len => herr _ c w len hs) (fun i u hl hu => hrun i _ u hl hu hs) hcons hc
  · have hs := hscript s rest hs
    exact hostAccess_keeps (hreset _ hs) (fun w => hack _ w hs) (fun t ht => hframe _ t ht hs) ha

theorem step_memWf {s t : State} (hs : s.memWf = true) (h : step s = .next t) : t.memWf = true :=
  step_keeps (P := fun s => s.memWf = true) (fun _ _ h => h) (fun _ _ _ _ h => by simpa [State.memWf] using h)
    (fun _ _ _ _ hx h => hx.memWf h) (fun _ _ h => by simpa [State.memWf] using h)
    (fun _ => State.softReset_memWf _) (fun _ _ h => h) (fun _ _ hf => hf.memWf) hs h

/-- A response is pushed only where there is room for it (10_state.md R49, 45_control.md R451). -/
theorem Executes.fifosBounded {i : Instr} {s u : State} (h : Executes i s u)
    (hl : responds i = true → s.rspFifo.length < 64) (hs : s.fifosBounded = true) : u.fifosBounded = true := by
  rw [State.fifosBounded_iff] at hs ⊢
  rw [h.cmdFifo]
  refine ⟨hs.1, ?_⟩
  obtain hr | ⟨hi, v, hr⟩ := h.rspFifo <;> rw [hr]
  · exact hs.2
  · rw [List.length_append]
    exact hl hi

theorem State.consume_fifosBounded {s : State} (h : s.fifosBounded = true) (len : Nat) :
    (s.consume len).fifosBounded = true := by
  rw [State.fifosBounded_iff] at h ⊢
  simp only [State.consume_cmdFifo, State.consume_rspFifo, List.length_drop]
  exact ⟨(Nat.sub_le _ _).trans h.1, h.2⟩

theorem step_fifosBounded {s t : State} (hs : s.fifosBounded = true) (h : step s = .next t) :
    t.fifosBounded = true :=
  step_keeps (P := fun s => s.fifosBounded = true) (fun _ _ h => h)
    (fun _ _ _ _ h => State.consume_fifosBounded (by exact h) _) (fun _ _ _ hl hx h => hx.fifosBounded hl h)
    (fun _ len h => State.consume_fifosBounded h len) (fun _ _ => rfl) (fun _ _ h => h)
    (fun _ _ hf => hf.fifosBounded) hs h

/-- The error path sets HALT with its record (60_exceptions.md R545). -/
theorem State.raiseError_errorRecord (s : State) (c : Cause) (w : Word) (len : Nat) :
    (s.raiseError c w len).errorRecord = true := by
  simp [State.errorRecord]

theorem step_errorRecord {s t : State} (hs : s.errorRecord = true) (h : step s = .next t) : t.errorRecord = true :=
  step_keeps (P := fun s => s.errorRecord = true) (fun _ _ h => h)
    (fun s c w len _ => s.raiseError_errorRecord c w len)
    (fun _ _ _ _ hx h => by simpa [State.errorRecord, hx.halt, hx.errCause, hx.errCmd, hx.errCp] using h)
    (fun _ _ h => by simpa [State.errorRecord] using h) (fun _ _ => rfl) (fun _ _ h => h)
    (fun _ _ hf => hf.errorRecord) hs h

/-- A host access within its frame keeps what is said of the registers and the channels. -/
theorem HostFrame.regsLegal {s t : State} (hf : HostFrame s t) (h : s.regsLegal = true) : t.regsLegal = true := by
  simpa only [State.regsLegal, hf.glob, hf.chL, hf.chR] using h

theorem HostFrame.countsInRange {s t : State} (hf : HostFrame s t) (h : s.countsInRange = true) :
    t.countsInRange = true := by
  simpa only [State.countsInRange, hf.chL, hf.chR] using h

theorem HostFrame.unitsSound {s t : State} (hf : HostFrame s t) (h : s.unitsSound = true) : t.unitsSound = true := by
  simpa only [State.unitsSound, hf.chL, hf.chR] using h

theorem step_regsLegal {s t : State} (hs : s.regsLegal = true) (h : step s = .next t) : t.regsLegal = true :=
  step_keeps (P := fun s => s.regsLegal = true) (fun _ _ h => h)
    (fun _ _ _ _ h => by simpa [State.regsLegal] using h) (fun _ _ _ _ hx h => hx.regsLegal h)
    (fun _ _ h => by simpa [State.regsLegal] using h) (fun _ _ => State.resetWith_regsLegal _) (fun _ _ h => h)
    (fun _ _ hf => hf.regsLegal) hs h

theorem step_unitsSound {s t : State} (hs : s.unitsSound = true) (h : step s = .next t) : t.unitsSound = true :=
  step_keeps (P := fun s => s.unitsSound = true) (fun _ _ h => h)
    (fun _ _ _ _ h => by simpa [State.unitsSound] using h) (fun _ _ _ _ hx h => hx.unitsSound h)
    (fun _ _ h => by simpa [State.unitsSound] using h) (fun _ _ => State.resetWith_unitsSound _) (fun _ _ h => h)
    (fun _ _ hf => hf.unitsSound) hs h

/-- The counts need the legal registers beside them: a derivation takes a count from its register. -/
theorem step_countsInRange {s t : State} (hr : s.regsLegal = true) (hs : s.countsInRange = true)
    (h : step s = .next t) : t.countsInRange = true :=
  (step_keeps (P := fun s => s.regsLegal = true ∧ s.countsInRange = true) (fun _ _ h => h)
    (fun _ _ _ _ h => by simpa [State.regsLegal, State.countsInRange] using h)
    (fun _ _ _ _ hx h => ⟨hx.regsLegal h.1, hx.countsInRange h.1 h.2⟩)
    (fun _ _ h => by simpa [State.regsLegal, State.countsInRange] using h)
    (fun _ _ => ⟨State.resetWith_regsLegal _, State.resetWith_countsInRange _⟩) (fun _ _ h => h)
    (fun _ _ hf h => ⟨hf.regsLegal h.1, hf.countsInRange h.2⟩) ⟨hr, hs⟩ h).2

end Sys2Proof.Machine
end

section
open Sys2Proof Sys2Proof.Machine

/-- Settles O55: each of the three is kept by every operation of the core and of the host. -/
theorem stepKeepsMemoryFifosRecord : Obligations.StepKeepsMemoryFifosRecord := by
  unfold Obligations.StepKeepsMemoryFifosRecord
  exact ⟨fun _ _ => step_memWf, fun _ _ => step_fifosBounded, fun _ _ => step_errorRecord⟩

/-- Settles O56: only WREG, SETFS and a reset store in a control register, each a legal word. -/
theorem stepKeepsRegsLegal : Obligations.StepKeepsRegsLegal := by
  unfold Obligations.StepKeepsRegsLegal
  exact fun _ _ => step_regsLegal

/-- Settles O57: a derivation, a clear, a block and a field write each keep the units sound, and each takes a count only
from a legal register. -/
theorem stepKeepsUnitsSound : Obligations.StepKeepsUnitsSound := by
  unfold Obligations.StepKeepsUnitsSound
  exact ⟨fun _ _ => step_unitsSound, fun _ _ => step_countsInRange⟩

/-- Settles O58: the derivations of reset keep the invariants of the blank channel, whatever the transcendental functions
are. -/
theorem resetInvariants : Obligations.ResetInvariants := by
  unfold Obligations.ResetInvariants
  exact ⟨rfl, rfl, rfl, State.resetWith_regsLegal _, State.resetWith_unitsSound _, State.resetWith_countsInRange _⟩
end

section
/-!
The frames of the commands (10_state.md R46-R51, R70, R71): which part of the state each may change.
-/

namespace Sys2Proof.Machine

/-! ### The bytes a storing command leaves alone -/

/-- A run of one unit gives as many outputs as inputs (46_diagnostic.md R502). -/
theorem Channel.runUnit_length (T : Transc) (i : Bool) (c : Channel) (u : UnitRef) (x : List F32) :
    (c.runUnit T i u x).2.length = x.length := by
  cases u with
  | line l => exact Line.block_length T i c.regs _ x
  | chan => exact Channel.block_length T i c x
  | _ => simp [Channel.runUnit]

theorem Chan.output_addr_zero (k : Chan) : k.output.addr 0 = outBase k := by
  cases k <;> rfl

/-- PROC stores in the first words of OUT_L and OUT_R (44_fdn_channel.md R397). -/
theorem State.procBlock_readByte (T : Transc) (s : State) {a b : List F32} {n x : Nat} (ha : a.length = n)
    (hb : b.length = n) (hl : ¬ (0x18000 ≤ x ∧ x < 0x18000 + 4 * n)) (hr : ¬ (0x1C000 ≤ x ∧ x < 0x1C000 + 4 * n)) :
    (s.procBlock T a b).mem.readByte x = s.mem.readByte x := by
  unfold State.procBlock
  rw [State.storeFrom_readByte, State.storeFrom_readByte] <;>
    · rw [Channel.block_length, crossMix_length, ha, hb, Nat.min_self, Region.addr, Region.base]
      omega

/-- UPROC stores in the first words of OUT of its channel (46_diagnostic.md R502). -/
theorem State.runUnit_readByte (T : Transc) (s : State) (k : Chan) (u : UnitRef) {a : List F32} {n x : Nat}
    (ha : a.length = n) (h : ¬ (outBase k ≤ x ∧ x < outBase k + 4 * n)) :
    (s.runUnit T k u a).mem.readByte x = s.mem.readByte x := by
  unfold State.runUnit
  rw [State.storeFrom_readByte, State.setChan_mem]
  rw [Channel.runUnit_length, ha, Chan.output_addr_zero]
  omega

/-- VGEN and VGENX store in the first words of VEC (40_rng_vgen.md R215, R216). -/
theorem State.storeFrom_vec_readByte (s : State) {vs : List F32} {n x : Nat} (hv : vs.length = n)
    (h : ¬ (0x20000 ≤ x ∧ x < 0x20000 + 4 * n)) :
    (State.storeFrom .vec 0 vs s).mem.readByte x = s.mem.readByte x := by
  rw [State.storeFrom_readByte]
  rw [hv, Region.addr, Region.base]
  omega

/-- A byte that the change of a command leaves alone, the command leaves alone. -/
theorem exec_readByte {i : Instr} {s t : State} {a : Nat}
    (hrun : ∀ u, Executes i s u → u.mem.readByte a = s.mem.readByte a) (h : exec i s = .next t) :
    t.mem.readByte a = s.mem.readByte a :=
  exec_keeps (P := fun t => t.mem.readByte a = s.mem.readByte a) rfl (fun _ _ _ => by simp) (fun u _ => hrun u)
    (fun _ _ h => by simpa using h) h

/-! ### The channels -/

/-- A channel changes only by six commands. -/
theorem Channel.Changed.eq {i : Instr} {k : Chan} {c d : Channel} (h : Channel.Changed i k c d)
    (hwreg : ∀ ch sel n v, i ≠ .wreg ch sel n v) (hsetfs : ∀ ch sel n v, i ≠ .setfs ch sel n v)
    (hclear : ∀ ch sel n, i ≠ .clear ch sel n) (hproc : ∀ ch sel n, i ≠ .proc ch sel n)
    (huproc : ∀ ch sel n, i ≠ .uproc ch sel n) (hwder : ∀ ch sel n v, i ≠ .wder ch sel n v) : d = c := by
  cases h with
  | same => rfl
  | writeReg => exact absurd rfl (hwreg _ _ _ _)
  | setRate => exact absurd rfl (hsetfs _ _ _ _)
  | clearUnit => exact absurd rfl (hclear _ _ _)
  | block => exact absurd rfl (hproc _ _ _)
  | runUnit => exact absurd rfl (huproc _ _ _)
  | writeField => exact absurd rfl (hwder _ _ _ _)

/-- A channel outside a command's mask does not change. -/
theorem Channel.Changed.eq_of_mask {i : Instr} {k : Chan} {c d : Channel} (h : Channel.Changed i k c d)
    {ch : BitVec 2} {sel n : BitVec 12} {v : Word} (hm : maskOf k &&& ch = 0)
    (hi : i = .wreg ch sel n v ∨ i = .clear ch sel n ∨ i = .uproc ch sel n ∨ i = .wder ch sel n v) : d = c := by
  obtain rfl | rfl | rfl | rfl := hi <;> cases h <;> first | rfl | exact absurd hm ‹_›

/-- A command changes a channel in one of the ways of `Channel.Changed`, or not at all. -/
theorem exec_changed {i : Instr} {s t : State} (h : exec i s = .next t) (k : Chan) :
    Channel.Changed i k (s.chan k) (t.chan k) :=
  exec_keeps (P := fun t => Channel.Changed i k (s.chan k) (t.chan k)) .same
    (fun _ _ _ => by cases k <;> simp only [State.chan, State.raiseError_chL, State.raiseError_chR] <;> exact .same)
    (fun _ _ hx => hx.changed k)
    (fun _ _ h => by cases k <;> simpa only [State.chan, State.consume_chL, State.consume_chR] using h) h

/-! ### X -/

/-- X changes only by RNGSEED, a draw, or a WDER of the RNG (10_state.md R70). -/
theorem Executes.x {i : Instr} {s u : State} (h : Executes i s u) (hseed : ∀ ch sel n v, i ≠ .rngseed ch sel n v)
    (hu : ∀ ch sel n, i ≠ .rngu ch sel n) (hi : ∀ ch sel n, i ≠ .rngi ch sel n) (hf : ∀ ch sel n, i ≠ .rngf ch sel n)
    (hb : ∀ ch sel n, i ≠ .rngb ch sel n) (hw : ∀ ch n v, i ≠ .wder ch 0xF00 n v) : u.x = s.x := by
  cases h with
  | rngseed => exact absurd rfl (hseed _ _ _ _)
  | rngu => exact absurd rfl (hu _ _ _)
  | rngi => exact absurd rfl (hi _ _ _)
  | rngf => exact absurd rfl (hf _ _ _)
  | rngb => exact absurd rfl (hb _ _ _)
  | wder h =>
    rename_i r
    cases r with
    | rng v =>
      cases eq_rngSel_of_wderCheck h
      exact absurd rfl (hw _ _ _)
    | unit f v => rw [State.writeRef, State.onChannels_x]
  | _ => simp [State.setRate]

/-! ### IP -/

theorem bitVec_and_trans {n : Nat} {a b c : BitVec n} (h : a &&& b = a) (g : b &&& c = b) : a &&& c = a := by
  rw [← h, BitVec.and_assoc, g]

/-- Consuming words sets at most IP.IDLE. -/
theorem State.consume_ip_keeps (s : State) (len : Nat) : s.ip &&& (s.consume len).ip = s.ip := by
  unfold State.consume State.noteIdle
  split
  · exact bitVec_and_or_self _ _
  · exact BitVec.and_self

theorem State.raiseError_ip_keeps (s : State) (c : Cause) (w : Word) (len : Nat) :
    s.ip &&& (s.raiseError c w len).ip = s.ip := by
  have h : ∀ u : State, u.ip = s.ip ||| IrqBit.err.mask → s.ip &&& (u.consume len).ip = s.ip := fun u hu =>
    bitVec_and_trans (hu ▸ bitVec_and_or_self s.ip _) (u.consume_ip_keeps len)
  exact h _ rfl

/-- No turn of the core clears an IP bit. -/
theorem coreStep_ip {s t : State} (h : coreStep s = .next t) : s.ip &&& t.ip = s.ip :=
  coreStep_keeps (P := fun t => s.ip &&& t.ip = s.ip) BitVec.and_self (s.raiseError_ip_keeps) (fun _ _ _ hx => hx.ip)
    (fun u len h => bitVec_and_trans h (u.consume_ip_keeps len)) h

/-! ### CP -/

/-- A command that does not stall takes its words off the FIFO and adds their number to CP (10_state.md R48). -/
theorem Completes.counts {i : Instr} {s t : State} (h : Completes i s t) :
    t.cmdFifo = s.cmdFifo.drop (wordsOf i) ∧ t.cp = s.cp + BitVec.ofNat 32 (wordsOf i) := by
  obtain ⟨c, -, rfl⟩ | ⟨-, u, hu, rfl⟩ := h
  · simp
  · simp [hu.cmdFifo, hu.cp]

end Sys2Proof.Machine
end

section
open Sys2Proof Sys2Proof.Machine

/-- Settles O49: a command that stores nothing does not touch the memory, and a block store leaves every byte outside its
words. -/
theorem memoryFrame : Obligations.MemoryFrame := by
  unfold Obligations.MemoryFrame
  refine ⟨fun i s t hi h => ?_, fun ch sel n s t h a hl hr => ?_, fun k sel n s t h a ho => ?_,
    fun ch sel n seed s t h a hv => ?_, fun ch sel n seed cs s t h a hv => ?_⟩
  · have hm := exec_keeps (P := fun t => t.mem = s.mem ∧ t.written = s.written) ⟨rfl, rfl⟩ (fun _ _ _ => by simp)
      (fun _ _ hx => hx.mem hi) (fun _ _ h => by simpa using h) h
    exact ⟨fun a => by rw [hm.1], hm.2⟩
  · refine exec_readByte (fun u hu => ?_) h
    cases hu with
    | proc hk ha hb =>
      obtain ⟨rfl, -⟩ := procCheck_eq_ok hk
      exact s.procBlock_readByte _ (State.loadFrom_some ha).1 (State.loadFrom_some hb).1 hl hr
  · refine exec_readByte (fun u hu => ?_) h
    cases hu with
    | uproc hk hx =>
      obtain ⟨hc, rfl, -⟩ := uprocCheck_eq_ok hk
      obtain rfl := Option.some.inj ((oneChan_eq_some.2 rfl).symm.trans (oneChan_eq_some.2 hc))
      exact s.runUnit_readByte _ _ _ (State.loadFrom_some hx).1 ho
  · refine exec_readByte (fun u hu => ?_) h
    cases hu with
    | vgen hk =>
      obtain ⟨rfl, -⟩ := vgenCheck_eq_ok hk
      exact s.storeFrom_vec_readByte (generate_length _ _) hv
  · refine exec_readByte (fun u hu => ?_) h
    cases hu with
    | vgenx hk =>
      obtain ⟨rfl, -⟩ := vgenxCheck_eq_ok hk
      exact s.storeFrom_vec_readByte (generateX_length _ _ _) hv

/-- Settles O50: by the ways in which a command may change a channel, and by what may store in the global registers. -/
theorem registerFrame : Obligations.RegisterFrame := by
  unfold Obligations.RegisterFrame
  intro i s t h
  refine ⟨fun hw hf => ?_, fun hf => ?_, fun hw => ?_, fun hw hf hc hp hu hd => ?_, fun k ch sel n v hm hi => ?_⟩
  · exact exec_keeps (P := fun t => t.glob = s.glob) rfl (fun _ _ _ => by simp) (fun _ _ hx => hx.glob hw hf)
      (fun _ _ h => by simpa using h) h
  · exact exec_keeps (P := fun t => t.glob.fs = s.glob.fs) rfl (fun _ _ _ => by simp) (fun _ _ hx => hx.glob_fs hf)
      (fun _ _ h => by simpa using h) h
  · exact ⟨(exec_changed h .L).regs hw, (exec_changed h .R).regs hw⟩
  · exact ⟨(exec_changed h .L).eq hw hf hc hp hu hd, (exec_changed h .R).eq hw hf hc hp hu hd⟩
  · exact (exec_changed h k).eq_of_mask hm hi

/-- Settles O51: part by part over what a command can do. -/
theorem stateFrame : Obligations.StateFrame := by
  unfold Obligations.StateFrame
  intro i s t h
  refine ⟨fun hs hu hi hf hb hw => ?_, ?_, fun hi => ?_, ?_⟩
  · exact exec_keeps (P := fun t => t.x = s.x) rfl (fun _ _ _ => by simp) (fun _ _ hx => hx.x hs hu hi hf hb hw)
      (fun _ _ h => by simpa using h) h
  · refine exec_keeps (P := fun t => t.rspFifo = s.rspFifo ∨
      (responds i = true ∧ s.rspFifo.length < 64 ∧ ∃ v, t.rspFifo = s.rspFifo ++ [v])) (.inl rfl)
      (fun _ _ _ => by simp) (fun _ hl hx => ?_) (fun _ _ h => by simpa using h) h
    exact hx.rspFifo.imp id (fun ⟨hr, v, hv⟩ => ⟨hr, hl hr, v, hv⟩)
  · obtain ⟨-, -, rfl⟩ | ⟨-, ⟨c, hc, -⟩ | ⟨-, u, hu, rfl⟩⟩ := exec_cases h
    · exact ⟨rfl, rfl, rfl, rfl⟩
    · rw [hi] at hc
      cases hc
    · simp [hu.halt, hu.errCause, hu.errCmd, hu.errCp]
  · refine exec_keeps (P := fun t => t.ie = s.ie ∧ t.script = s.script ∧ t.hostReads = s.hostReads ∧
      t.draws = s.draws ∧ t.cmdLoss = s.cmdLoss) ⟨rfl, rfl, rfl, rfl, rfl⟩ (fun _ _ _ => by simp)
      (fun _ _ hx => ⟨hx.ie, hx.script, hx.hostReads, hx.draws, hx.cmdLoss⟩) (fun _ _ h => by simpa using h) h

/-- Settles O53: a command that does not stall, and an illegal word, take exactly their words. -/
theorem cpCountsWords : Obligations.CpCountsWords := by
  unfold Obligations.CpCountsWords
  intro s t h
  obtain rfl | ⟨w, rest, hw, hs, rfl⟩ | ⟨i, rest, hs, hi⟩ := coreStep_cases h
  · exact .inl rfl
  · refine .inr ⟨w, rest, hs, ?_, ?_, ?_⟩ <;> rw [lengthOfOp_illegal hw]
    · rw [hs, List.length_cons]
      omega
    · exact State.raiseError_cmdFifo _ _ _ _
    · exact State.raiseError_cp _ _ _ _
  · obtain ⟨-, -, rfl⟩ | ⟨-, hc⟩ := exec_cases hi
    · exact .inl rfl
    · refine .inr ⟨headOf i, (encode i).tail ++ rest, by rw [hs, ← List.cons_append, ← encode_eq_cons], ?_⟩
      rw [lengthOfOp_headOf]
      exact ⟨by rw [hs, List.length_append, length_encode_eq]; omega, hc.counts⟩

/-- Settles O54: the core only sets IP bits, and of the host's accesses only the two named leave the frame that keeps
them. -/
theorem pendingStays : Obligations.PendingStays := by
  unfold Obligations.PendingStays
  refine ⟨fun s t => coreStep_ip, fun T a s t h hip hreset => ?_⟩
  obtain ⟨w, hw, rfl, -⟩ | ⟨w, rfl, -⟩ | hf := hostAccess_cases h
  · exact absurd rfl (hreset w hw)
  · exact absurd rfl (hip w)
  · exact hf.ip
end

section
/-!
WREG and PROC as they complete (45_control.md R452, 44_fdn_channel.md R397): where the written register is seen, and what
the block leaves in memory.
-/

namespace Sys2Proof.Machine

/-! ### Registers as the host reads them -/

@[simp] theorem State.readReg_consume (s : State) (len : Nat) (k : Chan) (r : Reg) :
    (s.consume len).readReg k r = s.readReg k r := by
  cases r <;> cases k <;> simp [State.readReg, State.chan]

/-- A register a write reaches reads as the value stored: a global one in both channels, a channel's in those of the mask
(10_state.md R51). -/
theorem State.readReg_writeReg_self (T : Transc) (s : State) {m : BitVec 2} {r : Reg} {v : Word} {k : Chan}
    (hv : r.type.legal v = true) (h : (∃ g, r = .glob g) ∨ maskOf k &&& m ≠ 0) :
    (s.writeReg T m r v).readReg k r = v := by
  cases r with
  | glob g => exact GlobRegs.get_set_self _ hv
  | chan c =>
    have hm : maskOf k &&& m ≠ 0 := h.resolve_left (fun ⟨g, hg⟩ => by cases hg)
    rw [State.readReg, State.writeReg, State.chan_onChannels, if_neg hm, Channel.writeReg_regs,
      ChanRegs.get_set_self _ hv]

/-- A register a write does not reach reads as before (10_state.md R51). -/
theorem State.readReg_writeReg_ne (T : Transc) (s : State) {m : BitVec 2} {r q : Reg} {v : Word} {k : Chan}
    (h : ¬ (q = r ∧ ((∃ g, r = .glob g) ∨ maskOf k &&& m ≠ 0))) :
    (s.writeReg T m r v).readReg k q = s.readReg k q := by
  cases r with
  | glob g =>
    cases q with
    | glob p => exact GlobRegs.get_set_ne _ _ (fun hp => h ⟨by rw [hp], .inl ⟨g, rfl⟩⟩)
    | chan d => cases k <;> rfl
  | chan c =>
    cases q with
    | glob p => rw [State.readReg, State.readReg, State.writeReg, State.onChannels_glob]
    | chan d =>
      rw [State.readReg, State.readReg, State.writeReg, State.chan_onChannels]
      split
      · rfl
      · rw [Channel.writeReg_regs, ChanRegs.get_set_ne _ _ (fun hd => h ⟨by rw [hd], .inr ‹_›⟩)]

/-- What WREG accepts, its check resolves (45_control.md R452). -/
theorem wregCheck_of_accept {ch : BitVec 2} {sel : BitVec 12} {value v : Word} {r : Reg} (hch : ch ≠ 0)
    (hr : Reg.ofSel sel = some r) (hfs : r ≠ .glob .fs) (hv : r.type.accept value = some v) :
    wregCheck ch sel 0 value = .ok (r, v) := by
  unfold wregCheck
  rw [hr, if_neg (by simp), if_neg (by simpa using hch)]
  split
  · rename_i h
    cases h
  · rename_i h
    exact absurd (Option.some.inj h) hfs
  · rename_i h
    obtain rfl := Option.some.inj h
    rw [hv]

/-! ### PROC -/

theorem procCheck_of_le {n : BitVec 12} (h1 : 1 ≤ n.toNat) (h2 : n.toNat ≤ 1024) :
    procCheck 0 0 n = .ok n.toNat :=
  (countCheck_eq n 1024).trans (if_neg (by omega))

/-- PROC reserves CH and SEL, and refuses a block length of 0 or above 1024 (44_fdn_channel.md R397). -/
theorem instrError_proc_reserved {ch : BitVec 2} {sel : BitVec 12} (n : BitVec 12) (h : ch ≠ 0 ∨ sel ≠ 0) :
    instrError (.proc ch sel n) = some .reserved := by
  rw [instrError, procCheck, if_pos (by simpa using h)]
  rfl

theorem instrError_proc_badN {n : BitVec 12} (h : n.toNat = 0 ∨ 1024 < n.toNat) :
    instrError (.proc 0 0 n) = some .badN :=
  causeOf_eq_some.2 ((countCheck_eq n 1024).trans (if_pos h))

/-- PROC with its input blocks (44_fdn_channel.md R397). -/
theorem execProc_of_blocks {n : BitVec 12} {s : State} {a b : List F32} {rest : List Word} (h1 : 1 ≤ n.toNat)
    (h2 : n.toNat ≤ 1024) (hs : s.cmdFifo = encode (.proc 0 0 n) ++ rest)
    (ha : s.loadFrom .inL 0 n.toNat = some a) (hb : s.loadFrom .inR 0 n.toNat = some b) :
    exec (.proc 0 0 n) s = .next ((s.procBlock Config.transc a b).completed 1 rest) := by
  have hc : (s.procBlock Config.transc a b).cmdFifo = encode (.proc 0 0 n) ++ rest := by
    simpa [State.procBlock] using hs
  simp only [exec, execProc, procWith, procCheck_of_le h1 h2, checked_ok, ha, hb,
    State.consume_eq (len := 1) hc rfl]

/-- PROC with an input block missing a word (70_reset_and_hazards.md R620). -/
theorem execProc_uninit {n : BitVec 12} {s : State} (h1 : 1 ≤ n.toNat) (h2 : n.toNat ≤ 1024)
    (h : s.loadFrom .inL 0 n.toNat = none ∨ s.loadFrom .inR 0 n.toNat = none) :
    exec (.proc 0 0 n) s = .fault .uninit := by
  simp only [exec, execProc, procWith, procCheck_of_le h1 h2, checked_ok]
  split
  · rename_i ha hb
    rw [ha, hb] at h
    obtain h | h := h <;> cases h
  · rfl

/-- The cross-mix sample by sample (44_fdn_channel.md R397). -/
theorem crossMix_map (m : F32) (a b : Nat → F32) (n : Nat) :
    crossMix m ((List.range n).map a) ((List.range n).map b) = (List.range n).map (fun k =>
      F32.add (F32.mul (a k) (F32.sub F32.one (F32.mul m F32.half))) (F32.mul (b k) (F32.mul m F32.half))) := by
  rw [crossMix, List.zipWith_map, List.zipWith_self]

/-- What PROC changes beside the channels, the memory and the written set: nothing. -/
theorem State.procBlock_frame (T : Transc) (s : State) (a b : List F32) :
    { s.procBlock T a b with chL := s.chL, chR := s.chR, mem := s.mem, written := s.written } = s := by
  have h : ∀ (r : Region) (vs : List F32) (u : State),
      ({ u with chL := s.chL, chR := s.chR, mem := s.mem, written := s.written } : State) = s →
      ({ State.storeFrom r 0 vs u with chL := s.chL, chR := s.chR, mem := s.mem, written := s.written } : State) = s :=
    fun r vs u hu => (congrArg (fun t : State =>
      ({ t with chL := s.chL, chR := s.chR, mem := s.mem, written := s.written } : State))
      (State.storeFrom_eq r 0 vs u)).trans hu
  exact h _ _ _ (h _ _ _ rfl)

/-- The words of OUT_L after PROC: the store in OUT_R lies beyond them. -/
theorem State.procBlock_outL (T : Transc) (s : State) (a b : List F32) (ha : a.length ≤ 1024) {k : Nat} {v : F32}
    (h : (s.chL.block T s.glob.interpEn (crossMix s.glob.inputMix a b)).2[k]? = some v) :
    (s.procBlock T a b).mem.readWord (0x18000 + 4 * k) = some v.bits := by
  have hk := (List.getElem?_eq_some_iff.1 h).1
  rw [Channel.block_length, crossMix_length] at hk
  unfold State.procBlock
  rw [State.storeFrom_readWord _ _ _ _ (by rw [Region.addr, Region.base]; omega)]
  have hw := State.storeFrom_word .outL 0 _ { s with
    chL := (s.chL.block T s.glob.interpEn (crossMix s.glob.inputMix a b)).1
    chR := (s.chR.block T s.glob.interpEn (crossMix s.glob.inputMix b a)).1 } h
  rwa [Nat.zero_add] at hw

/-- The words of OUT_R after PROC. -/
theorem State.procBlock_outR (T : Transc) (s : State) (a b : List F32) {k : Nat} {v : F32}
    (h : (s.chR.block T s.glob.interpEn (crossMix s.glob.inputMix b a)).2[k]? = some v) :
    (s.procBlock T a b).mem.readWord (0x1C000 + 4 * k) = some v.bits := by
  have hw := State.storeFrom_word .outR 0 _ (State.storeFrom .outL 0
    (s.chL.block T s.glob.interpEn (crossMix s.glob.inputMix a b)).2 { s with
      chL := (s.chL.block T s.glob.interpEn (crossMix s.glob.inputMix a b)).1
      chR := (s.chR.block T s.glob.interpEn (crossMix s.glob.inputMix b a)).1 }) h
  rwa [Nat.zero_add] at hw

/-- Both channel blocks run on the cross-mixed inputs, and their outputs stand in OUT_L and OUT_R
(44_fdn_channel.md R397). -/
theorem State.procBlock_outputs (T : Transc) (s : State) {a b : List F32} {n : Nat} (ha : a.length = n)
    (hb : b.length = n) (hn : n ≤ 1024) : ∃ oL oR : List F32,
      s.chL.block T s.glob.interpEn (crossMix s.glob.inputMix a b) = ((s.procBlock T a b).chL, oL) ∧
      s.chR.block T s.glob.interpEn (crossMix s.glob.inputMix b a) = ((s.procBlock T a b).chR, oR) ∧
      oL.length = n ∧ oR.length = n ∧
      (∀ (k : Nat) (v : F32), oL[k]? = some v → (s.procBlock T a b).mem.readWord (0x18000 + 4 * k) = some v.bits) ∧
      ∀ (k : Nat) (v : F32), oR[k]? = some v → (s.procBlock T a b).mem.readWord (0x1C000 + 4 * k) = some v.bits := by
  refine ⟨_, _, by rw [State.procBlock_chL], by rw [State.procBlock_chR], ?_, ?_,
    fun k v h => s.procBlock_outL T a b (by omega) h, fun k v h => s.procBlock_outR T a b h⟩ <;>
    rw [Channel.block_length, crossMix_length, ha, hb, Nat.min_self]

/-- The words PROC marks as written. -/
theorem State.mem_procBlock_written (T : Transc) (s : State) {a b : List F32} {n : Nat} (ha : a.length = n)
    (hb : b.length = n) (x : Nat) : x ∈ (s.procBlock T a b).written ↔
      x ∈ s.written ∨ ∃ j < n, x = 0x18000 + 4 * j ∨ x = 0x1C000 + 4 * j := by
  unfold State.procBlock
  rw [State.storeFrom_written, State.storeFrom_written]
  simp only [Channel.block_length, crossMix_length, ha, hb, Nat.min_self, Nat.zero_add, Region.addr, Region.base,
    and_or_left, exists_or, or_assoc]

end Sys2Proof.Machine
end

section
open Sys2Proof Sys2Proof.Machine

/-- Settles O14: a register reads as it was last stored, in every channel the write reaches. -/
theorem regScope : Obligations.RegScope := by
  unfold Obligations.RegScope
  refine ⟨fun ch sel value r v s rest hch hr hfs hv _ => ?_, fun _ _ => ⟨rfl, rfl⟩, fun _ _ => ⟨rfl, rfl⟩⟩
  refine ⟨(s.writeReg Config.transc ch r v).consume 2, ?_, fun k q => ⟨fun hq h => ?_, fun h => ?_⟩⟩
  · simp only [exec, execWreg, wregWith, wregCheck_of_accept hch hr hfs hv, checked_ok]
  · rw [State.readReg_consume, hq]
    exact s.readReg_writeReg_self _ (RegType.accept_stored r.type_ordered hv).1 h
  · rw [State.readReg_consume]
    exact s.readReg_writeReg_ne _ h

/-- Settles O29: the two input blocks are read, both channel blocks run on their cross-mix, and the outputs are stored one
after the other. -/
theorem procRunsBothChannels : Obligations.ProcRunsBothChannels := by
  unfold Obligations.ProcRunsBothChannels
  refine ⟨fun n a b s rest h1 h2 ha hb hs => ?_, fun ch sel n h => refuses_of_instrError (instrError_proc_reserved n h),
    fun n h => refuses_of_instrError (instrError_proc_badN h), fun n k s h2 hk h => ?_⟩
  · have hla := State.loadFrom_of_words (s := s) (r := .inL) (k := 0) (f := fun k => ⟨a k⟩)
      (fun j hj => by rw [Nat.zero_add]; exact ha j hj)
    have hlb := State.loadFrom_of_words (s := s) (r := .inR) (k := 0) (f := fun k => ⟨b k⟩)
      (fun j hj => by rw [Nat.zero_add]; exact hb j hj)
    have hna := (State.loadFrom_some hla).1
    have hnb := (State.loadFrom_some hlb).1
    obtain ⟨oL, oR, hL, hR, hlL, hlR, hwL, hwR⟩ := s.procBlock_outputs Config.transc hna hnb h2
    have hframe := fun a b => congrArg (fun u : State => u.completed 1 rest) (s.procBlock_frame Config.transc a b)
    rw [crossMix_map] at hL hR
    refine ⟨_, _, _, oL, oR, execProc_of_blocks h1 h2 hs hla hlb, rfl, rfl, ?_⟩
    exact ⟨hL, hR, hlL, hlR, hwL, hwR, fun x => s.procBlock_readByte _ hna hnb, s.mem_procBlock_written _ hna hnb,
      hframe _ _⟩
  · refine execProc_uninit (by omega) h2 (h.imp (fun h => ?_) (fun h => ?_)) <;>
      exact State.loadFrom_none hk (by rw [Nat.zero_add]; exact h)
end

section
/-!
The host's accesses one by one (10_state.md R42-R49; 20_memory.md R121-R126): a register of the host block by its number,
CTRL, and a sample or vector word by its address.
-/

namespace Sys2Proof.Machine

/-! ### The host register block -/

/-- An access to the word k of the host register block (10_state.md R42). -/
theorem busTarget_reg {a : BitVec 18} {k : Nat} (hk : k < 14) (ha : a.toNat = 4 * k) : busTarget .word a = .reg k := by
  rw [busTarget, if_pos ⟨rfl, by omega⟩, locate, if_pos (by omega), ha, Nat.mul_div_cancel_left _ (by decide)]

theorem hostAccess_read_reg (T : Transc) (s : State) {a : BitVec 18} {k : Nat} (hk : k < 14) (ha : a.toNat = 4 * k) :
    hostAccess T (.read .word a) s = .next (s.readHostReg k) := by
  simp only [hostAccess, busTarget_reg hk ha]

theorem hostAccess_write_reg (T : Transc) (s : State) (w : Word) {a : BitVec 18} {k : Nat} (hk : k < 14)
    (ha : a.toNat = 4 * k) : hostAccess T (.write .word a w) s = .next (s.writeHostReg T k w) := by
  simp only [hostAccess, busTarget_reg hk ha]

/-- A read of a result of the command stream, while a command word is lost (70_reset_and_hazards.md R621). -/
theorem State.readHostReg_of_lost {s : State} (h : s.cmdLost = true) {k : Nat} (h8 : 8 ≤ k) (h13 : k ≤ 13) :
    s.readHostReg k = s.drawWord := by
  interval_cases k <;> exact State.answerResult_of_lost h _

/-- Of IP the mask 0x17 leaves CMDOVF and BUSERR, and no bit lies above bit 5 (10_state.md R46). -/
theorem ip_and_not_mask (v : BitVec 6) : v.setWidth 32 &&& ~~~(0x17 : Word) = (v &&& 0b101000).setWidth 32 := by
  revert v; decide

/-- A read of IP, while a command word is lost: CMDOVF and BUSERR are shown, and a CMDOVF of 1 is the check
(10_state.md R46, 70_reset_and_hazards.md R621). -/
theorem State.readIp_of_lost {s : State} (h : s.cmdLost = true) : s.readIp = { s with
    hostReads := s.hostReads ++ [(s.ip &&& 0b101000).setWidth 32 ||| (Config.draw s.draws &&& 0b010111)]
    draws := s.draws + 1
    cmdLoss := if s.ip.getLsbD 3 then .seen else s.cmdLoss } := by
  have hloss : s.noteCheck.cmdLoss = if s.ip.getLsbD 3 then .seen else s.cmdLoss := by
    have hne : s.cmdLoss ≠ .none := by simpa [State.cmdLost] using h
    rw [State.noteCheck_cmdLoss]
    cases hl : s.cmdLoss with
    | none => exact absurd hl hne
    | unseen => simp
    | seen => simp
  have hs : s.noteCheck = { s with cmdLoss := if s.ip.getLsbD 3 then .seen else s.cmdLoss } := by
    rw [← hloss, State.noteCheck]
    split <;> rfl
  rw [State.readIp, State.answerBits_of_lost (s.noteCheck_cmdLost.trans h), ip_and_not_mask, hs]
  rfl

/-- A read of IP, while no command word is lost. -/
theorem State.readIp_of_kept {s : State} (h : s.cmdLost = false) : s.readIp = s.answer (s.ip.setWidth 32) := by
  have hn : s.noteCheck = s := by
    rw [State.cmdLost_eq_false_iff] at h
    rw [State.noteCheck, if_neg (by rw [h]; nofun)]
  rw [State.readIp, State.answerBits_of_kept (by rw [hn]; exact h), hn]

/-- IRQ, bit by bit (10_state.md R46, 60_exceptions.md R549). -/
theorem State.irq_iff (s : State) : s.irq = true ↔ ∃ j : Nat, s.ie.getLsbD j = true ∧ s.ip.getLsbD j = true := by
  rw [State.irq, bne_iff_ne, ne_eq, ← not_iff_not, not_not]
  constructor
  · rintro h ⟨j, hie, hip⟩
    have := congrArg (·.getLsbD j) h
    simp [hie, hip] at this
  · intro h
    refine BitVec.eq_of_getLsbD_eq fun j _ => ?_
    simpa using fun hie hip => h ⟨j, hie, hip⟩

/-- STATUS shows nothing above bit 6 (10_state.md R44). -/
theorem State.status_and_mask (s : State) : s.status &&& ~~~(0x7F : Word) = 0#32 := by
  refine BitVec.eq_of_getLsbD_eq fun k _ => ?_
  rw [BitVec.getLsbD_and, State.status_getLsbD]
  match k with
  | 0 | 1 | 2 | 3 | 4 | 5 | 6 => simp
  | k + 7 => simp

/-- A read of STATUS, while a command word is lost. -/
theorem State.readStatus_of_lost {s : State} (h : s.cmdLost = true) : s.readHostReg 2 = { s with
    hostReads := s.hostReads ++ [Config.draw s.draws &&& 0x7F], draws := s.draws + 1 } := by
  rw [State.readHostReg, State.answerBits_of_lost h, State.status_and_mask, BitVec.zero_or]
  rfl

/-- A write to a read-only register is ignored (10_state.md R42). -/
theorem State.writeHostReg_readOnly (T : Transc) (s : State) (w : Word) {k : Nat} (h : k < 3 ∨ 6 < k) :
    s.writeHostReg T k w = s := by
  unfold State.writeHostReg
  split
  case h_5 => rfl
  all_goals omega

theorem extractLsb'_zero_eq_setWidth (w : Word) : w.extractLsb' 0 6 = w.setWidth 6 :=
  BitVec.setWidth_eq_extractLsb' (by decide) |>.symm

end Sys2Proof.Machine
end

section
open Sys2Proof Sys2Proof.Machine

/-- Settles O42: a register of the block is the one of its number, and what a read returns is the register's value,
or a draw of its open bits while a command word is lost. -/
theorem hostRegisters : Obligations.HostRegisters := by
  unfold Obligations.HostRegisters
  refine ⟨fun T s => ⟨rfl, rfl, rfl, rfl, rfl⟩, fun T s h => ?_, fun T s a h ha => ?_, fun T s h => ⟨?_, ?_⟩,
    fun s => s.irq_iff, fun T s w => ⟨?_, ?_, fun a ha => ?_⟩⟩
  · have key : ∀ v, s.answerResult v = s.answer v := State.answerResult_of_kept h
    refine ⟨?_, ?_, ?_, ?_, ?_, ?_, ?_, ?_⟩
    · exact congrArg _ (State.answerBits_of_kept h _ _)
    · exact congrArg _ (State.readIp_of_kept h)
    all_goals exact congrArg _ (key _)
  · simp only [List.mem_cons, List.not_mem_nil, or_false] at ha
    rw [hostAccess_read_reg T s (k := a.toNat / 4) (by omega) (by omega),
      State.readHostReg_of_lost h (by omega) (by omega)]
    rfl
  · exact congrArg _ (State.readStatus_of_lost h)
  · exact congrArg _ (State.readIp_of_lost h)
  · rw [← extractLsb'_zero_eq_setWidth]
    rfl
  · rw [← extractLsb'_zero_eq_setWidth]
    rfl
  · simp only [List.mem_cons, List.not_mem_nil, or_false] at ha
    rw [hostAccess_write_reg T s w (k := a.toNat / 4) (by omega) (by omega),
      State.writeHostReg_readOnly T s w (by omega)]
end

section
/-!
The host's two ports, CTRL (10_state.md R45, R49) and the sample and vector words (20_memory.md R121-R126).
-/

namespace Sys2Proof.Machine

/-! ### The CMD and RSP ports -/

theorem State.pushCmd_of_room {s : State} (w : Word) (h : s.cmdFifo.length < 256) :
    s.pushCmd w = { s with cmdFifo := s.cmdFifo ++ [w] } := if_pos h

theorem State.pushCmd_of_full {s : State} (w : Word) (h : s.cmdFifo.length = 256) :
    s.pushCmd w = { s with ip := s.ip ||| 0b001000, cmdLoss := .unseen } := if_neg (fun hlt => absurd h (Nat.ne_of_lt hlt))

theorem State.popRsp_cons {s : State} {v : Word} {rest : List Word} (h : s.rspFifo = v :: rest) :
    s.popRsp = State.answerResult { s with rspFifo := rest } v := by
  rw [State.popRsp, h]

theorem State.popRsp_nil {s : State} (h : s.rspFifo = []) : s.popRsp = (s.raiseIrq .rspUnf).answerResult 0 := by
  rw [State.popRsp, h]

/-! ### CTRL

Each of the three bits' operation as an equation over the whole state, whether its bit is set or not. -/

theorem State.flushCmd_if (s : State) (b : Bool) : (if b then s.flushCmd else s) = { s with
    cmdFifo := if b then [] else s.cmdFifo
    ip := if b && !s.cmdFifo.isEmpty then s.ip ||| 0b000100 else s.ip } := by
  cases b with
  | false => rfl
  | true =>
    cases h : s.cmdFifo with
    | nil => simp [State.flushCmd, ← h]
    | cons w ws => simp [State.flushCmd, h]; rfl

theorem State.flushRsp_if (s : State) (b : Bool) : (if b then s.flushRsp else s) = { s with
    rspFifo := if b then [] else s.rspFifo } := by
  cases b <;> rfl

theorem State.clearError_if (s : State) (b : Bool) : (if b then s.clearError else s) = { s with
    halt := if b then false else s.halt
    errCause := if b then none else s.errCause
    errCmd := if b then 0 else s.errCmd
    errCp := if b then 0 else s.errCp } := by
  cases b <;> rfl

theorem State.recoverCmd_if (s : State) (b : Bool) : (if b then s.recoverCmd else s) = { s with
    cmdLoss := if b && s.cmdLoss == .seen then .none else s.cmdLoss } := by
  cases b with
  | false => rfl
  | true => simp only [State.recoverCmd, if_true, Bool.true_and, beq_iff_eq]; split <;> rfl

/-- A write to CTRL without SRST: the three operations touch different fields (10_state.md R45). -/
theorem State.writeCtrl_of_noReset (T : Transc) (s : State) {w : Word} (h : w.getLsbD 0 = false) :
    s.writeCtrl T w = { s with
      cmdFifo := if w.getLsbD 2 then [] else s.cmdFifo
      ip := if w.getLsbD 2 && !s.cmdFifo.isEmpty then s.ip ||| 0b000100 else s.ip
      rspFifo := if w.getLsbD 3 then [] else s.rspFifo
      halt := if w.getLsbD 1 then false else s.halt
      errCause := if w.getLsbD 1 then none else s.errCause
      errCmd := if w.getLsbD 1 then 0 else s.errCmd
      errCp := if w.getLsbD 1 then 0 else s.errCp
      cmdLoss := if w.getLsbD 1 && w.getLsbD 2 && s.cmdLoss == .seen then .none else s.cmdLoss } := by
  simp only [State.writeCtrl, h, Bool.false_eq_true, if_false, State.recoverCmd_if, State.clearError_if,
    State.flushRsp_if, State.flushCmd_if]

/-! ### Sample and vector words -/

/-- A mapped word address above the register block names a word of a region. -/
theorem exists_region_of_mapped {a : BitVec 18} (h4 : a.toNat % 4 = 0) (hm : mappedAddr a.toNat)
    (hlo : 0x10000 ≤ a.toNat) : ∃ (r : Region) (k : Nat), a.toNat = r.addr k ∧ k < r.words := by
  obtain h | h | h | h | h | h := hm
  · omega
  · exact ⟨.inL, (a.toNat - 0x10000) / 4, by simp only [Region.addr, Region.base]; omega,
      by simp only [Region.words, Config.bs]; omega⟩
  · exact ⟨.inR, (a.toNat - 0x14000) / 4, by simp only [Region.addr, Region.base]; omega,
      by simp only [Region.words, Config.bs]; omega⟩
  · exact ⟨.outL, (a.toNat - 0x18000) / 4, by simp only [Region.addr, Region.base]; omega,
      by simp only [Region.words, Config.bs]; omega⟩
  · exact ⟨.outR, (a.toNat - 0x1C000) / 4, by simp only [Region.addr, Region.base]; omega,
      by simp only [Region.words, Config.bs]; omega⟩
  · exact ⟨.vec, (a.toNat - 0x20000) / 4, by simp only [Region.addr, Region.base]; omega,
      by simp only [Region.words, Config.vecLen]; omega⟩

/-- The word a host read returns, by address: the stored one, if it is an IN word or the core has written it and no command
word is lost (10_state.md R71). -/
theorem State.hostWord_eq (s : State) {r : Region} {k : Nat} (hk : k < r.words) : s.hostWord r k =
    if r.addr k < 0x18000 ∨ (r.addr k ∈ s.written ∧ s.cmdLost = false) then s.wordAt (r.addr k) else none := by
  simp only [State.hostWord, State.wordAt, Bool.or_eq_true, Bool.and_eq_true, Bool.not_eq_true', List.contains_eq_mem,
    decide_eq_true_eq, Region.isInput_iff hk]

/-- A host read, with no command pending, of a word that a step determines. -/
theorem hostAccess_read_word_of_some (T : Transc) {s : State} {a : BitVec 18} {r : Region} {k : Nat} {v : Word}
    (hs : s.cmdFifo = []) (ha : a.toNat = r.addr k) (hk : k < r.words) (hv : s.hostWord r k = some v) :
    hostAccess T (.read .word a) s = .next (s.answer v) := by
  have hz : s.readHazard r k = false := by rw [State.readHazard, hs]; rfl
  simp only [hostAccess, busTarget_word_iff.2 ⟨ha, hk⟩, State.readSample_eq, hz, hv, Bool.false_eq_true, if_false]

/-- A host read, with no command pending, of a word that no step determines. -/
theorem hostAccess_read_word_of_none (T : Transc) {s : State} {a : BitVec 18} {r : Region} {k : Nat}
    (hs : s.cmdFifo = []) (ha : a.toNat = r.addr k) (hk : k < r.words) (hv : s.hostWord r k = none) :
    hostAccess T (.read .word a) s = .next s.drawWord := by
  have hz : s.readHazard r k = false := by rw [State.readHazard, hs]; rfl
  simp only [hostAccess, busTarget_word_iff.2 ⟨ha, hk⟩, State.readSample_eq, hz, hv, Bool.false_eq_true, if_false]

/-- A host write of a sample or vector word with no command pending. -/
theorem hostAccess_write_word (T : Transc) {s : State} {a : BitVec 18} {r : Region} {k : Nat} (w : Word)
    (hs : s.cmdFifo = []) (ha : a.toNat = r.addr k) (hk : k < r.words) :
    ∃ t, hostAccess T (.write .word a w) s = .next t ∧ s.writeSample r k w = .next t := by
  have hz : s.writeHazard r k = false := by rw [State.writeHazard, hs]; rfl
  have hw : s.writeSample r k w = .next _ := if_neg (by rw [hz]; exact Bool.false_ne_true)
  exact ⟨_, by simp only [hostAccess, busTarget_word_iff.2 ⟨ha, hk⟩]; exact hw, hw⟩

theorem Mem.readByte_writeWord_first (m : Mem) (a : Nat) (w : Word) :
    (m.writeWord a w).readByte a = some (w.extractLsb' 0 8) := by
  simp [Mem.writeWord, Mem.readByte_writeByte]

theorem Mem.readByte_writeWord_last (m : Mem) (a : Nat) (w : Word) :
    (m.writeWord a w).readByte (a + 3) = some (w.extractLsb' 24 8) := by
  simp [Mem.writeWord, Mem.readByte_writeByte]

end Sys2Proof.Machine
end

section
open Sys2Proof Sys2Proof.Machine

/-- Settles O44: a word is queued or dropped by the level alone, and a popped word is a result of the command stream. -/
theorem portsQueueWords : Obligations.PortsQueueWords := by
  unfold Obligations.PortsQueueWords
  refine ⟨fun T s w h => ?_, fun T s w h => ?_, fun T s v rest h hl => ?_, fun T s v rest h hl => ?_,
    fun T s h hl => ?_, fun T s h hl => ?_⟩
  · exact congrArg _ (State.pushCmd_of_room w h)
  · exact congrArg _ (State.pushCmd_of_full w h)
  · exact congrArg _ ((State.popRsp_cons h).trans (State.answerResult_of_kept (by exact hl) v))
  · exact congrArg _ ((State.popRsp_cons h).trans (State.answerResult_of_lost (by exact hl) v))
  · exact congrArg _ ((State.popRsp_nil h).trans (State.answerResult_of_kept (by exact hl) 0))
  · exact congrArg _ ((State.popRsp_nil h).trans (State.answerResult_of_lost (by exact hl) 0))

/-- Settles O45: SRST is the soft reset alone, and without it the other bits act on different fields. -/
theorem ctrlResetsFlushesClears : Obligations.CtrlResetsFlushesClears := by
  unfold Obligations.CtrlResetsFlushesClears
  intro T s w
  rw [hostAccess_write_reg T s w (k := 3) (by decide) rfl]
  exact ⟨fun h => congrArg _ (if_pos h), fun h => congrArg _ (s.writeCtrl_of_noReset T h)⟩

/-- Settles O48: with no command pending no access is a hazard, so a write stores the word and a read returns the
region's host word. -/
theorem writeThenRead : Obligations.WriteThenRead := by
  unfold Obligations.WriteThenRead
  refine ⟨fun T s a w hs h4 hm hlo => ?_, fun T s a hs h4 hm hlo => ?_⟩
  all_goals obtain ⟨r, k, ha, hk⟩ := exists_region_of_mapped h4 hm hlo
  · obtain ⟨t, ht, hw⟩ := hostAccess_write_word T w hs ha hk
    obtain ⟨hmem, hwritten, hframe⟩ := State.writeSample_cases hw
    rw [← ha] at hmem hwritten
    have hiff : r.isInput = true ↔ a.toNat < 0x18000 := ha ▸ Region.isInput_iff hk
    have hin : ∀ x : Nat, x ∈ t.written ↔ x ∈ s.written ∨ (x = a.toNat ∧ a.toNat < 0x18000) := by
      intro x
      rw [hwritten, ← hiff]
      split <;> simp [*, or_comm]
    have hword : t.wordAt a.toNat = some w := by rw [State.wordAt, hmem, Mem.readWord_writeWord_self]
    have hlost : t.cmdLost = s.cmdLost := (congrArg State.cmdLost hframe :)
    have hfifo : t.cmdFifo = [] := (congrArg State.cmdFifo hframe :).trans hs
    refine ⟨t, ht, ?_, hword, ?_, ?_, fun x hx => ?_, hin, hframe⟩
    · have hcond : (a.toNat < 0x18000 ∨ (a.toNat ∈ t.written ∧ t.cmdLost = false)) ↔
          (a.toNat < 0x18000 ∨ (a.toNat ∈ s.written ∧ s.cmdLost = false)) := by
        rw [hin, hlost]; tauto
      have hread := State.hostWord_eq t hk
      rw [← ha, hword] at hread
      by_cases hc : a.toNat < 0x18000 ∨ (a.toNat ∈ s.written ∧ s.cmdLost = false)
      · rw [if_pos hc, hostAccess_read_word_of_some T hfifo ha hk (hread.trans (if_pos (hcond.2 hc)))]
        rfl
      · rw [if_neg hc, hostAccess_read_word_of_none T hfifo ha hk (hread.trans (if_neg (mt hcond.1 hc)))]
        rfl
    · rw [hmem, Mem.readByte_writeWord_first]
    · rw [hmem, Mem.readByte_writeWord_last]
    · rw [hmem, Mem.readByte_writeWord_of_not_mem (by omega)]
  · have hread := State.hostWord_eq s hk
    rw [← ha] at hread
    refine ⟨fun v hv hc => hostAccess_read_word_of_some T hs ha hk (by rw [hread, if_pos hc, hv]), fun hn => ?_⟩
    refine hostAccess_read_word_of_none T hs ha hk ?_
    obtain hn | ⟨hhi, hn⟩ := hn
    · rw [hread, hn, ite_self]
    · rw [hread, if_neg]
      rintro (hlt | ⟨hmem, hl⟩)
      · omega
      · simp [hmem, hl] at hn
end

section
/-!
STATUS (10_state.md R44) and the reset values of the control registers (10_state.md R53).
-/

namespace Sys2Proof

/-- Only a FIFO without a word makes the decoder answer that there is none. -/
theorem decode_cons_ne_empty (w : Word) (ws : List Word) : decode (w :: ws) ≠ .error .empty := by
  have h1 : ∀ f, operand1 f ws ≠ .error .empty := fun f => by cases ws <;> simp [operand1]
  have h2 : ∀ f, operand2 f ws ≠ .error .empty := fun f => by
    match ws with
    | [] => simp [operand2]
    | [_] => simp [operand2]
    | _ :: _ :: _ => simp [operand2]
  rw [decode, decodeHead]
  split <;> simp [h1, h2]

end Sys2Proof

namespace Sys2Proof.Machine

/-- STATUS.WAITOP: the first word's command is longer than the FIFO (10_state.md R44). -/
theorem State.waitOp_iff (s : State) : s.waitOp = true ↔
    s.halt = false ∧ ∃ w ws, s.cmdFifo = w :: ws ∧ s.cmdFifo.length < lengthOfOp (opOf w) := by
  cases hs : s.cmdFifo with
  | nil => simp [State.waitOp, hs]
  | cons w ws => simp [State.waitOp_cons hs, hs]

/-- STATUS.STALL of a FIFO that starts with a whole command: it responds and no room is left (10_state.md R44). -/
theorem State.stall_encode {s : State} {i : Instr} {rest : List Word} (h : s.cmdFifo = encode i ++ rest) :
    s.stall = (!s.halt && responds i && s.rspFull) := by
  have hc : s.cmdFifo = headOf i :: ((encode i).tail ++ rest) := by rw [h, encode_eq_cons]; rfl
  have hlen : ¬ s.cmdFifo.length < lengthOfOp (opOf (headOf i)) := by
    rw [h, List.length_append, length_encode_eq, lengthOfOp_headOf]
    omega
  rw [State.stall_cons hc, State.waitOp_cons hc, pushesResponse_headOf, decide_eq_false hlen]
  simp

/-- A stalled FIFO starts with a whole command: nothing else has all its words and pushes a response. -/
theorem State.exists_encode_of_stall {s : State} (h : s.stall = true) :
    ∃ (i : Instr) (rest : List Word), s.cmdFifo = encode i ++ rest := by
  cases hs : s.cmdFifo with
  | nil => simp [State.stall, hs] at h
  | cons w ws =>
    simp only [State.stall_cons hs, State.waitOp_cons hs, hs, Bool.and_eq_true, Bool.not_eq_true', Bool.and_eq_false_iff,
      Bool.not_eq_false', decide_eq_false_iff_not] at h
    obtain ⟨⟨⟨hhalt, hwait⟩, hresp⟩, -⟩ := h
    cases hd : decode (w :: ws) with
    | ok p => exact ⟨p.1, p.2, eq_encode_of_decode hd⟩
    | error e =>
      cases e with
      | empty => exact absurd hd (decode_cons_ne_empty w ws)
      | incomplete =>
        have hlt := length_of_decode_incomplete hd
        rw [opLen_eq] at hlt
        exact absurd hlt (hwait.resolve_left (by simp [hhalt]))
      | illegalOp v =>
        obtain ⟨hv, rest, heq⟩ := illegalOp_of_decode hd
        cases heq
        rw [pushesResponse_illegal hv] at hresp
        cases hresp

/-- The reset value of a control register, as the table gives it (10_state.md R53). -/
def Reg.resetWord : Reg → Word
  | .glob g => GlobRegs.reset.get g
  | .chan c => ChanRegs.reset.get c

/-- After reset every control register reads as its reset value, in either channel (10_state.md R52). -/
theorem State.reset_readReg (k : Chan) : State.reset.readReg k = Reg.resetWord := by
  funext r
  cases r with
  | glob g => rfl
  | chan c =>
    have h : (State.reset.chan k).regs = ChanRegs.reset := by cases k <;> exact Channel.reset_regs _ _
    rw [State.readReg, h, Reg.resetWord]

end Sys2Proof.Machine
end

section
open Sys2Proof Sys2Proof.Machine

/-- Settles O43: the bits are read off one by one, and a FIFO that has a command's words stalls if it responds. -/
theorem statusBits : Obligations.StatusBits := by
  unfold Obligations.StatusBits
  refine ⟨fun T s w => ⟨fun h => congrArg _ (State.answerBits_of_kept h _ _), rfl⟩, fun s hb => ?_⟩
  rw [State.fifosBounded_iff] at hb
  simp only [State.status_getLsbD]
  refine ⟨?_, trivial, ?_, ?_, ?_, ?_, ?_, fun k hk => ?_⟩
  · simp [State.cmdLevel]
  · simp [State.cmdLevel, Config.cmdDepth]
  · simp [State.rspLevel]
  · simp [State.rspLevel, Config.rspDepth]
  · exact s.waitOp_iff
  · have hfull : s.rspFull = true ↔ s.rspFifo.length = 64 := by rw [State.rspFull_iff]; omega
    constructor
    · intro h
      obtain ⟨i, rest, hi⟩ := State.exists_encode_of_stall h
      rw [State.stall_encode hi] at h
      simp only [Bool.and_eq_true, Bool.not_eq_true', hfull] at h
      exact ⟨h.1.1, h.2, i, rest, hi, h.1.2⟩
    · rintro ⟨hhalt, hlen, i, rest, hi, hr⟩
      rw [State.stall_encode hi, hhalt, hr, hfull.2 hlen]
      rfl
  · obtain ⟨j, rfl⟩ := Nat.exists_eq_add_of_le' hk
    rfl

/-- Settles O59: the fields are those of the reset state, and the registers those of the table. -/
theorem resetValues : Obligations.ResetValues := by
  unfold Obligations.ResetValues
  refine ⟨rfl, rfl, rfl, rfl, rfl, rfl, rfl, rfl, rfl, rfl, rfl, fun k => ?_⟩
  rw [State.reset_readReg]
  decide
end

section
/-!
The turn of the core by what stands at the head of the command FIFO (20_memory.md R129, 60_exceptions.md R557).
-/

namespace Sys2Proof

/-- The decoder answers the command whose words come first (30_encoding.md R160, R165). -/
theorem decode_encode (i : Instr) (rest : List Word) : decode (encode i ++ rest) = .ok (i, rest) := by
  cases i <;> simp [encode, decode, decodeHead, operand1, operand2]

end Sys2Proof

namespace Sys2Proof.Machine

theorem coreStep_of_encode {s : State} {i : Instr} {rest : List Word} (hh : s.halt = false)
    (hs : s.cmdFifo = encode i ++ rest) : coreStep s = exec i s := by
  have hf : s.fetch = .run i := by simp [State.fetch, hh, hs, decode_encode]
  rw [coreStep, hf]

/-- A halted core, and one without a word, stays as it is (60_exceptions.md R546, R557). -/
theorem coreStep_of_idle {s : State} (h : s.halt = true ∨ s.cmdFifo = []) : coreStep s = .next s := by
  have hf : s.fetch = .idle := by
    rcases h with h | h
    · simp [State.fetch, h]
    · simp [State.fetch, h, decode]
  rw [coreStep, hf]

end Sys2Proof.Machine
end

section
open Sys2Proof Sys2Proof.Machine

/-- Settles O5: by the script's next turn, and for the core's turn by what stands at the head of the FIFO. -/
theorem stepRunsCommand : Obligations.StepRunsCommand := by
  unfold Obligations.StepRunsCommand
  refine ⟨fun s i rest hh hs hc => ?_, fun s i rest turns hh hs hc => ?_, fun s a turns hc => by rw [step, hc],
    fun s hc h => ?_⟩
  all_goals rw [step, hc]
  · exact coreStep_of_encode hh hs
  · exact coreStep_of_encode (s := { s with script := turns }) hh hs
  · exact coreStep_of_idle h
end

section
/-!
Bus errors, and what a host read leaves unchanged (20_memory.md R123-R125).
-/

namespace Sys2Proof.Machine

/-! ### Bus errors -/

/-- The span that holds an address, or an address outside all of them (20_memory.md R121). -/
theorem regionAt_cases (a : Nat) :
    (∃ r : Region, regionAt a = some r ∧ r.base ≤ a ∧ a < r.base + 0x4000) ∨
      (regionAt a = none ∧ (a < 0x10000 ∨ 0x24000 ≤ a)) := by
  unfold regionAt
  split
  case h_6 h4 h5 h6 h7 h8 =>
    rw [imp_false] at h4 h5 h6 h7 h8
    exact .inr ⟨rfl, by omega⟩
  all_goals exact .inl ⟨_, rfl, by simp only [Region.base]; omega⟩

/-- The window map names exactly the mapped addresses (20_memory.md R121). -/
theorem locate_eq_unmapped_iff (a : Nat) : locate a = .unmapped ↔ ¬ mappedAddr a := by
  unfold locate
  split
  · exact iff_of_false nofun (not_not.2 (.inl ‹_›))
  · obtain ⟨r, hr, hlo, hhi⟩ | ⟨hr, ha⟩ := regionAt_cases a
    · have hin : mappedAddr a ↔ (a - r.base) / 4 < r.words := by
        rw [r.words_eq]
        cases r <;> simp only [mappedAddr, Region.base] at * <;> omega
      rw [hin]
      simp [hr]
    · rw [hr]
      exact iff_of_true rfl (by unfold mappedAddr; omega)

/-- A bus error goes nowhere, and nothing else does (20_memory.md R124). -/
theorem busTarget_eq_unmapped_iff {width : Width} {a : BitVec 18} :
    busTarget width a = .unmapped ↔ isBusError width a := by
  unfold busTarget isBusError
  split
  · rename_i h
    rw [locate_eq_unmapped_iff]
    simp [h]
  · rename_i h
    exact iff_of_true rfl (by tauto)

/-! ### What a read returns -/

/-- t is s with one more word returned to the host; the count of draws may have moved (assumption logs 4, 5). -/
def ReturnsWord (s t : State) : Prop :=
  ∃ (v : Word) (d : Nat), t = { s with hostReads := s.hostReads ++ [v], draws := d }

theorem State.answer_returnsWord (s : State) (v : Word) : ReturnsWord s (s.answer v) := ⟨v, s.draws, rfl⟩

theorem State.drawWord_returnsWord (s : State) : ReturnsWord s s.drawWord := ⟨_, _, rfl⟩

/-- A read of a sample or vector word that is no hazard (20_memory.md R133, 10_state.md R71). -/
theorem State.readSample_returnsWord {s t : State} {r : Region} {k : Nat} (h : s.readSample r k = .next t) :
    ReturnsWord s t := by
  rw [State.readSample_eq] at h
  split at h
  · cases h
  · cases h
    split
    · exact s.answer_returnsWord _
    · exact s.drawWord_returnsWord

/-- A read of a host register other than IP and RSP (10_state.md R42, R43). -/
theorem State.readHostReg_returnsWord (s : State) {k : Nat} (h5 : k ≠ 5) (h7 : k ≠ 7) :
    ReturnsWord s (s.readHostReg k) := by
  unfold State.readHostReg
  split
  case h_3 => exact s.answerBits_shape _ _
  case h_5 => exact absurd rfl h5
  case h_6 => exact absurd rfl h7
  all_goals first | exact s.answer_returnsWord _ | exact s.answerResult_shape _

/-- A read of IP notes an unseen loss as seen where it shows CMDOVF (70_reset_and_hazards.md R621). -/
theorem State.noteCheck_cases (s : State) : s.noteCheck = s ∨
    (s.ip.getLsbD 3 = true ∧ s.cmdLoss = .unseen ∧ s.noteCheck = { s with cmdLoss := .seen }) := by
  unfold State.noteCheck
  split
  · rename_i h
    exact .inr ⟨h.2, h.1, rfl⟩
  · exact .inl rfl

end Sys2Proof.Machine
end

section
open Sys2Proof Sys2Proof.Machine

/-- Settles O40: a bus error has no target in the window. -/
theorem busErrorOnlySetsBit : Obligations.BusErrorOnlySetsBit := by
  unfold Obligations.BusErrorOnlySetsBit
  intro T width addr w s h
  simp only [hostAccess, busTarget_eq_unmapped_iff.2 h]
  exact ⟨rfl, rfl⟩

/-- Settles O41: by the word the address names; only the read of IP may change more than what was returned. -/
theorem readsArePure : Obligations.ReadsArePure := by
  unfold Obligations.ReadsArePure
  intro T width addr s t hbus hrsp h
  cases hb : busTarget width addr with
  | unmapped => exact absurd (busTarget_eq_unmapped_iff.1 hb) hbus
  | word r k =>
    simp only [hostAccess, hb] at h
    obtain ⟨v, d, rfl⟩ := State.readSample_returnsWord h
    exact ⟨v, d, s.cmdLoss, rfl, .inl rfl⟩
  | reg k =>
    simp only [hostAccess, hb] at h
    cases h
    obtain ⟨-, ha⟩ := addr_of_busTarget_reg hb
    by_cases h5 : k = 5
    · subst h5
      obtain ⟨v, d, ht⟩ := s.noteCheck.answerBits_shape 0x17 (s.ip.setWidth 32)
      refine ⟨v, d, s.noteCheck.cmdLoss, ht.trans ?_, ?_⟩
      all_goals obtain hn | ⟨hip, hl, hn⟩ := s.noteCheck_cases
      all_goals rw [hn]
      · exact .inl rfl
      · exact .inr ⟨ha, hip, hl, rfl⟩
    · obtain ⟨v, d, ht⟩ := s.readHostReg_returnsWord h5 (k := k) (by omega)
      exact ⟨v, d, s.cmdLoss, ht, .inl rfl⟩
end

section
/-!
Region ownership (20_memory.md R133): an access to a word that a pending command owns is the fault HAZARD, and every other
access completes.
-/

namespace Sys2Proof.Machine

/-! ### The words of the regions by address -/

theorem toNat_ofNat_addr {r : Region} {k : Nat} (hk : k < r.words) : (BitVec.ofNat 18 (r.addr k)).toNat = r.addr k := by
  rw [Region.words_eq] at hk
  rw [BitVec.toNat_ofNat, Nat.mod_eq_of_lt]
  cases r <;> simp only [Region.addr, Region.base] <;> omega

theorem busTarget_addr {r : Region} {k : Nat} (hk : k < r.words) :
    busTarget .word (BitVec.ofNat 18 (r.addr k)) = .word r k :=
  busTarget_word_iff.2 ⟨toNat_ofNat_addr hk, hk⟩

theorem inBase_eq (c : Chan) : inBase c = c.input.base := by cases c <;> rfl

theorem outBase_eq (c : Chan) : outBase c = c.output.base := by cases c <;> rfl

/-- A sample or vector word is accessed as a word at its address (20_memory.md R121, R123). -/
theorem addr_of_busTarget_word {width : Width} {a : BitVec 18} {r : Region} {k : Nat}
    (h : busTarget width a = .word r k) : a.toNat = r.addr k ∧ k < r.words := by
  by_cases hw : width = .word
  · subst hw
    exact busTarget_word_iff.1 h
  · rw [busTarget, if_neg (by tauto)] at h
    cases h

/-- The regions lie above the host register block (20_memory.md R121). -/
theorem Region.le_addr (r : Region) (k : Nat) : 0x10000 ≤ r.addr k := by
  cases r <;> simp only [Region.addr, Region.base] <;> omega

/-! ### An access that a pending command forbids -/

/-- A command anywhere in the FIFO is pending. -/
theorem headOf_mem_pendingHeads (before : List Instr) (i : Instr) (rest : List Word) :
    headOf i ∈ pendingHeads 0 (before.flatMap encode ++ encode i ++ rest) := by
  induction before with
  | nil => simp
  | cons j before ih =>
    rw [List.flatMap_cons, List.append_assoc, List.append_assoc, pendingHeads_encode, ← List.append_assoc]
    exact List.mem_cons_of_mem _ ih

section
variable {s : State} {i : Instr} {r : Region} {k : Nat}

/-- A host read of a word that a pending command writes (20_memory.md R133). -/
theorem hostAccess_read_of_owned (T : Transc) (hi : headOf i ∈ pendingHeads 0 s.cmdFifo) (hk : k < r.words)
    (ho : writesWord i (r.addr k)) : hostAccess T (.read .word (BitVec.ofNat 18 (r.addr k))) s = .fault .hazard := by
  have hz : s.readHazard r k = true :=
    List.any_eq_true.2 ⟨_, hi, (ownsWrite_headOf_iff (r.words_eq ▸ hk)).2 ho⟩
  simp only [hostAccess, busTarget_addr hk, State.readSample, hz, if_true]

/-- A host write of a word that a pending command reads or writes (20_memory.md R133). -/
theorem hostAccess_write_of_owned (T : Transc) (w : Word) (hi : headOf i ∈ pendingHeads 0 s.cmdFifo) (hk : k < r.words)
    (ho : readsWord i (r.addr k) ∨ writesWord i (r.addr k)) :
    hostAccess T (.write .word (BitVec.ofNat 18 (r.addr k)) w) s = .fault .hazard := by
  have hk' : k < 1024 := r.words_eq ▸ hk
  have hz : s.writeHazard r k = true := by
    refine List.any_eq_true.2 ⟨_, hi, ?_⟩
    rw [Bool.or_eq_true, ownsRead_headOf_iff hk', ownsWrite_headOf_iff hk']
    exact ho
  simp only [hostAccess, busTarget_addr hk, State.writeSample, hz, if_true]

end

/-- What a pending block command of channel c owns: IN against writes, OUT against reads and writes
(20_memory.md R133). -/
theorem hostAccess_of_block_owner (T : Transc) {s : State} {i : Instr} {c : Chan} {k : Nat} (w : Word)
    (hi : headOf i ∈ pendingHeads 0 s.cmdFifo) (hk : k < 1024) (hr : readsWord i (inBase c + 4 * k))
    (hw : writesWord i (outBase c + 4 * k)) :
    hostAccess T (.write .word (BitVec.ofNat 18 (inBase c + 4 * k)) w) s = .fault .hazard ∧
      hostAccess T (.write .word (BitVec.ofNat 18 (outBase c + 4 * k)) w) s = .fault .hazard ∧
      hostAccess T (.read .word (BitVec.ofNat 18 (outBase c + 4 * k))) s = .fault .hazard := by
  rw [inBase_eq] at hr ⊢
  rw [outBase_eq] at hw ⊢
  have hkr : ∀ r : Region, k < r.words := fun r => r.words_eq ▸ hk
  exact ⟨hostAccess_write_of_owned T w hi (hkr _) (.inl hr), hostAccess_write_of_owned T w hi (hkr _) (.inr hw),
    hostAccess_read_of_owned T hi (hkr _) hw⟩

/-! ### An access that ownership allows -/

section
variable (T : Transc) (s : State) (width : Width) (a : BitVec 18)

/-- A host read completes, or a pending command writes the word it names (20_memory.md R133). -/
theorem hostAccess_read_cases : (∃ t, hostAccess T (.read width a) s = .next t) ∨
    ∃ r k, busTarget width a = .word r k ∧ s.readHazard r k = true ∧
      hostAccess T (.read width a) s = .fault .hazard := by
  simp only [hostAccess]
  cases hb : busTarget width a with
  | reg k => exact .inl ⟨_, rfl⟩
  | unmapped => exact .inl ⟨_, rfl⟩
  | word r k =>
    cases hz : s.readHazard r k with
    | false => exact .inl ⟨_, (s.readSample_eq r k).trans (if_neg (ne_true_of_eq_false hz))⟩
    | true => exact .inr ⟨r, k, rfl, hz, if_pos hz⟩

/-- A host write completes, or a pending command reads or writes the word it names (20_memory.md R133). -/
theorem hostAccess_write_cases (w : Word) : (∃ t, hostAccess T (.write width a w) s = .next t) ∨
    ∃ r k, busTarget width a = .word r k ∧ s.writeHazard r k = true ∧
      hostAccess T (.write width a w) s = .fault .hazard := by
  simp only [hostAccess]
  cases hb : busTarget width a with
  | reg k => exact .inl ⟨_, rfl⟩
  | unmapped => exact .inl ⟨_, rfl⟩
  | word r k =>
    cases hz : s.writeHazard r k with
    | false => exact .inl ⟨_, if_neg (ne_true_of_eq_false hz)⟩
    | true => exact .inr ⟨r, k, rfl, hz, if_pos hz⟩

/-- A host access ends in a next state or in HAZARD (70_reset_and_hazards.md R620). -/
theorem hostAccess_next_or_hazard (a : HostAccess) :
    (∃ t, hostAccess T a s = .next t) ∨ hostAccess T a s = .fault .hazard := by
  cases a with
  | read width a => exact (hostAccess_read_cases T s width a).imp_right fun ⟨_, _, _, _, h⟩ => h
  | write width a w => exact (hostAccess_write_cases T s width a w).imp_right fun ⟨_, _, _, _, h⟩ => h

end

section
variable (T : Transc) {s : State} {width : Width} {a : BitVec 18}

theorem hostAccess_read_completes (h : ∀ r k, busTarget width a = .word r k → s.readHazard r k = false) :
    ∃ t, hostAccess T (.read width a) s = .next t :=
  (hostAccess_read_cases T s width a).resolve_right fun ⟨r, k, hb, hz, _⟩ => by simp [h r k hb] at hz

theorem hostAccess_write_completes (w : Word) (h : ∀ r k, busTarget width a = .word r k → s.writeHazard r k = false) :
    ∃ t, hostAccess T (.write width a w) s = .next t :=
  (hostAccess_write_cases T s width a w).resolve_right fun ⟨r, k, hb, hz, _⟩ => by simp [h r k hb] at hz

end

/-- No command writes an IN word (20_memory.md R133). -/
theorem ownsWrite_input (w : Word) (c : Chan) (k : Nat) : ownsWrite w c.input k = false := by
  unfold ownsWrite
  split
  case h_7 => rfl
  all_goals cases c <;> contradiction

theorem State.readHazard_input (s : State) (c : Chan) (k : Nat) : s.readHazard c.input k = false := by
  simp [State.readHazard, ownsWrite_input]

end Sys2Proof.Machine
end

section
open Sys2Proof Sys2Proof.Machine

/-- Settles O46: the command is pending, and it reads or writes the word the address names. -/
theorem ownedAccessIsHazard : Obligations.OwnedAccessIsHazard := by
  unfold Obligations.OwnedAccessIsHazard
  refine ⟨fun T s before n rest k c w hs hn hk => ?_, fun T s before sel n rest k c w hs hn hk => ?_,
    fun T s before i n rest k w hs hi hn hk => ?_⟩
  all_goals have hmem := hs ▸ headOf_mem_pendingHeads before _ rest
  · exact hostAccess_of_block_owner T w hmem (by omega) ⟨c, k, hk, rfl⟩ ⟨c, k, hk, rfl⟩
  · have hc : maskOf c &&& maskOf c ≠ 0 := by cases c <;> decide
    exact hostAccess_of_block_owner T w hmem (by omega) ⟨c, k, hc, hk, rfl⟩ ⟨c, k, hc, hk, rfl⟩
  · have hkv : k < Region.vec.words := Region.vec.words_eq ▸ (by omega)
    have hw : writesWord i (Region.vec.addr k) := by
      obtain ⟨seed, rfl⟩ | ⟨seed, cs, rfl⟩ := hi <;> exact ⟨k, hk, rfl⟩
    exact ⟨hostAccess_write_of_owned T w hmem hkv (.inr hw), hostAccess_read_of_owned T hmem hkv hw⟩

/-- Settles O47: an access that meets no hazard completes, and only a pending command that owns the word is one. -/
theorem allowedAccessCompletes : Obligations.AllowedAccessCompletes := by
  unfold Obligations.AllowedAccessCompletes
  refine ⟨fun T s a hs => ?_, fun T s c k hk => ?_, fun T s width addr w ha => ?_,
    fun T s items pending last m a hs hi hw => ?_, fun T s a => hostAccess_next_or_hazard T s a⟩
  · cases a with
    | read width a => exact hostAccess_read_completes T fun r k _ => by rw [State.readHazard, hs]; rfl
    | write width a w => exact hostAccess_write_completes T w fun r k _ => by rw [State.writeHazard, hs]; rfl
  · refine hostAccess_read_completes T fun r j hb => ?_
    rw [inBase_eq] at hb
    cases (busTarget_addr (r := c.input) (Region.words_eq _ ▸ hk)).symm.trans hb
    exact s.readHazard_input c k
  · have hreg : ∀ r k, busTarget width addr ≠ .word r k := fun r k hb => by
      have := r.le_addr k
      have := (addr_of_busTarget_word hb).1
      omega
    exact ⟨hostAccess_read_completes T fun r k hb => absurd hb (hreg r k),
      hostAccess_write_completes T w fun r k hb => absurd hb (hreg r k)⟩
  · refine ⟨hostAccess_read_completes T fun r k hb => ?_, fun hr w => hostAccess_write_completes T w fun r k hb => ?_⟩
    all_goals obtain ⟨ha, hk⟩ := addr_of_busTarget_word hb
    · exact State.readHazard_eq_false hk hs hi (ha ▸ hw)
    · exact State.writeHazard_eq_false hk hs hi (ha ▸ hw) (ha ▸ hr)
end

section
/-!
The round trip of the encoding, and the wait of the core for the words of its head command (30_encoding.md R160-R165,
R173).
-/

namespace Sys2Proof.Machine

/-- A core that may step waits exactly while words of its head command are missing (30_encoding.md R163). -/
theorem State.fetch_eq_idle_iff {s : State} {w : Word} {ws : List Word} (hh : s.halt = false)
    (hs : s.cmdFifo = w :: ws) : s.fetch = .idle ↔ s.cmdFifo.length < lengthOfOp (opOf w) := by
  constructor
  · intro hf
    unfold State.fetch at hf
    rw [hh, hs] at hf
    rw [hs, ← opLen_eq]
    split at hf
    · contradiction
    · split at hf
      case h_2 he => exact absurd he (decode_cons_ne_empty w ws)
      case h_3 he => exact length_of_decode_incomplete he
      all_goals cases hf
  · intro hlt
    obtain hf | ⟨v, rest, _, hv, hs'⟩ | ⟨i, rest, _, hs'⟩ := s.fetch_cases
    · exact hf
    · obtain ⟨rfl, rfl⟩ := List.cons.inj (hs.symm.trans hs')
      rw [lengthOfOp_illegal hv, hs, List.length_cons] at hlt
      omega
    · have hw : w = headOf i := by
        rw [hs, encode_eq_cons, List.cons_append] at hs'
        exact (List.cons.inj hs').1
      rw [hw, lengthOfOp_headOf, hs', List.length_append, length_encode_eq] at hlt
      omega

end Sys2Proof.Machine
end

section
open Sys2Proof Sys2Proof.Machine

/-- Settles O1: the fields of a command word read back, opcode by opcode. -/
theorem decodeEncode : Obligations.DecodeEncode := decode_encode

/-- Settles O2: a command word is made of its four fields, and the operand words are taken from the front. -/
theorem encodeDecode : Obligations.EncodeDecode := fun _ _ _ h => eq_encode_of_decode h

/-- Settles O3: the decoder finds a command or an illegal word exactly when all its words are there, and WAITOP says
whether they are. -/
theorem lengthsAndWait : Obligations.LengthsAndWait := by
  unfold Obligations.LengthsAndWait
  refine ⟨fun i => ⟨?_, ?_⟩, fun op => lengthOfOp_illegal, fun s w ws hc hh hs hlt => ⟨?_, ?_⟩,
    fun s w ws hh hs hle => ⟨?_, ?_⟩⟩
  · rw [length_encode_eq, lengthOfOp_headOf]
  · cases i <;> rfl
  · rw [step, hc]
    simp only [coreStep, (State.fetch_eq_idle_iff hh hs).2 hlt]
  · rw [State.status_getLsbD]
    exact s.waitOp_iff.2 ⟨hh, w, ws, hs, hlt⟩
  · rw [State.status_getLsbD]
    simp [State.waitOp_cons hs, hle]
  · rw [ne_eq, State.fetch_eq_idle_iff hh hs]
    omega

/-- Settles O4: the seven command examples are the encodings of their commands, and the decoder refuses the last word. -/
theorem specWordsDecode : Obligations.SpecWordsDecode :=
  ⟨decode_encode (.wreg 0b11 0x001 0 0x3F800000) [], decode_encode (.rreg 0b01 0x000 0) [],
    decode_encode (.setfs 0 0 0 0x45FA0000) [], decode_encode (.proc 0 0 4) [], decode_encode (.rder 0b01 0x101 0) [],
    decode_encode (.wder 0b01 0x100 0 0x3F000000) [], decode_encode (.vgenx 0 0 4 0 0x3F000000) [], rfl⟩
end

section
/-!
The draws of the RNG (40_rng_vgen.md R200-R204). The LCG step has an inverse. The float draw grows with the 31 bits it is
made of, so its values at a few arguments decide where its ends are reached; the bipolar draw is a rounded difference
that is at most 1 in magnitude.
-/

namespace Sys2Proof

/-! ### Differences -/

namespace F32

variable {x y : F32}

@[simp] theorem neg_sign (x : F32) : (neg x).sign = !x.sign := by
  simp [neg, sign]

@[simp] theorem neg_expo (x : F32) : (neg x).expo = x.expo := by
  have h : (0x80000000#32).extractLsb' 23 8 = 0 := by decide
  simp [neg, expo, BitVec.extractLsb'_xor, h]

@[simp] theorem neg_frac (x : F32) : (neg x).frac = x.frac := by
  have h : (0x80000000#32).extractLsb' 0 23 = 0 := by decide
  simp [neg, frac, BitVec.extractLsb'_xor, h]

@[simp] theorem neg_isNaN (x : F32) : (neg x).isNaN = x.isNaN := by simp [isNaN]

@[simp] theorem neg_isInf (x : F32) : (neg x).isInf = x.isInf := by simp [isInf]

@[simp] theorem neg_mag (x : F32) : (neg x).mag = x.mag := by
  unfold mag
  rw [neg_expo, neg_frac]

@[simp] theorem neg_val (x : F32) : (neg x).val = -x.val := by
  cases h : x.sign <;> simp [val, h]

/-- Negation of a value with a clear sign bit sets bit 31. -/
theorem neg_toNat (h : x.bits.toNat < 2 ^ 31) : (neg x).bits.toNat = x.bits.toNat + 2 ^ 31 := by
  have hhigh : (x.bits.toNat ^^^ 2 ^ 31) / 2 ^ 31 = 1 := by
    rw [Nat.xor_div_two_pow, Nat.div_eq_of_lt h]
    rfl
  have hlow : (x.bits.toNat ^^^ 2 ^ 31) % 2 ^ 31 = x.bits.toNat := by
    rw [Nat.xor_mod_two_pow, Nat.mod_eq_of_lt h, Nat.mod_self, Nat.xor_zero]
  have hxor : (neg x).bits.toNat = x.bits.toNat ^^^ 2 ^ 31 := BitVec.toNat_xor _ _
  omega

/-- A negative rounding is the mirror image of the positive one. -/
theorem round_true (n s : Nat) : round true n s = neg (round false n s) := by
  have h := roundBits_le_inf n s
  apply ext_toNat
  rw [neg_toNat (by rw [round_false_toNat]; omega), round_false_toNat, round_eq_pack, pack, if_pos rfl,
    BitVec.toNat_ofNat, Nat.mod_eq_of_lt (by omega)]

/-- The exact difference, rounded; equal values give +0. -/
theorem Plain.sub_eq (hx : x.Plain) (hy : y.Plain) :
    sub x y = if x.mag = y.mag then zero else round (decide (x.mag < y.mag)) ((x.mag : Int) - y.mag).natAbs 0 := by
  simp only [sub, add, neg_isNaN, neg_isInf, neg_val, hx.isNaN, hy.isNaN, hx.isInf, hy.isInf, hx.sign, hx.val, hy.val,
    Bool.or_self, Bool.false_and, Bool.false_eq_true, if_false, ← sub_eq_add_neg, sub_eq_zero, Nat.cast_inj, sub_neg,
    Nat.cast_lt]

/-- A rounding of at most 1 lies in [-1, 1]. -/
theorem ge_round_of_le_one {n : Nat} (negative : Bool) (h : n ≤ one.mag) :
    ge (round negative n 0) (neg one) = true ∧ ge one (round negative n 0) = true := by
  have hle : (round false n 0).bits.toNat ≤ one.bits.toNat := by
    rw [round_false_toNat, ← plain_one.roundBits_mag 0, pow_zero, mul_one]
    exact roundBits_mono h 0
  obtain ⟨hge, hle⟩ := ge_of_le_one hle
  obtain ⟨hn, -, hge⟩ := ge_iff.1 hge
  obtain ⟨h1, -, hle⟩ := ge_iff.1 hle
  rw [plain_zero.val, mag_zero] at hge
  cases negative with
  | false => simp only [ge_iff, neg_isNaN, neg_val, hn, h1, true_and]; omega
  | true => simp only [round_true, ge_iff, neg_isNaN, neg_val, hn, h1, true_and]; omega

theorem plain_two : two.Plain := by decide

theorem mag_two : two.mag = 2 * one.mag := by decide +kernel

/-- A difference from 1 of a plain number up to 2 lies in [-1, 1]. -/
theorem ge_sub_one_of_le_two (h : x.bits.toNat ≤ two.bits.toNat) :
    ge (sub x one) (neg one) = true ∧ ge one (sub x one) = true := by
  have hle := mag_mono plain_two h
  rw [mag_two] at hle
  rw [(plain_two.mono h).sub_eq plain_one]
  split_ifs
  · decide +kernel
  · exact ge_round_of_le_one _ (by omega)

end F32

end Sys2Proof

namespace Sys2Proof.Machine

/-! ### The step -/

/-- The LCG step undone: 0x2925141D is the inverse of its multiplier modulo 2^32. -/
theorem lcg_leftInverse : Function.LeftInverse (fun y => 0x2925141D#32 * (y - 1#32)) lcg := by
  intro x
  have h : 0x2925141D#32 * 22695477#32 = 1#32 := by decide
  simp only [lcg_eq, BitVec.add_sub_cancel, ← BitVec.mul_assoc, h, BitVec.one_mul]

theorem lcg_eq_zero_iff (x : Word) : lcg x = 0 ↔ x = 0xD6DAEBE3 :=
  lcg_leftInverse.injective.eq_iff' (by decide)

/-! ### The float draw -/

theorem int31_le (x : Word) : (int31 x).toNat ≤ 2147483647 := by
  rw [int31, BitVec.toNat_and]
  exact Nat.and_le_right

/-- The float draw of the integer i (40_rng_vgen.md R203). -/
def floatOfInt31 (i : Nat) : F32 := F32.div (F32.ofNat i) (F32.ofNat 2147483647)

theorem unitFloat_eq (x : Word) : unitFloat x = floatOfInt31 (int31 x).toNat := rfl

theorem floatOfInt31_mono {i j : Nat} (h : i ≤ j) (hj : j ≤ 2147483647) :
    (floatOfInt31 i).bits.toNat ≤ (floatOfInt31 j).bits.toNat := by
  have hplain : (F32.ofNat 2147483647).Plain := by decide +kernel
  exact F32.div_mono (hplain.mono (F32.ofNat_mono hj)) hplain (by decide +kernel) (F32.ofNat_mono h)

theorem floatOfInt31_last : floatOfInt31 2147483647 = F32.one := by decide +kernel

theorem floatOfInt31_le_one {i : Nat} (h : i ≤ 2147483647) : (floatOfInt31 i).bits.toNat ≤ F32.one.bits.toNat :=
  floatOfInt31_last ▸ floatOfInt31_mono h le_rfl

/-- The float draw is 0 only at 0. -/
theorem floatOfInt31_eq_zero_iff {i : Nat} (h : i ≤ 2147483647) : floatOfInt31 i = F32.zero ↔ i = 0 := by
  have hone : (floatOfInt31 1).bits.toNat = 0x30000000 := by decide +kernel
  refine ⟨fun h0 => ?_, fun h0 => by rw [h0]; decide +kernel⟩
  by_contra hne
  have := floatOfInt31_mono (show 1 ≤ i by omega) h
  rw [hone, h0] at this
  exact absurd this (by decide)

theorem floatOfInt31_belowOne : floatOfInt31 2147483583 = F32.belowOne := by decide +kernel

/-- The float draw is 1 on the last 64 integers, those nearer to 2^31 than to the binary32 below it. -/
theorem floatOfInt31_eq_one_iff {i : Nat} (h : i ≤ 2147483647) : floatOfInt31 i = F32.one ↔ 2147483584 ≤ i := by
  have hfirst : floatOfInt31 2147483584 = F32.one := by decide +kernel
  refine ⟨fun h1 => ?_, fun hi => F32.ext_toNat (le_antisymm (floatOfInt31_le_one h) ?_)⟩
  · by_contra hlt
    have := floatOfInt31_mono (show i ≤ 2147483583 by omega) (by norm_num)
    rw [h1, floatOfInt31_belowOne] at this
    exact absurd this (by decide)
  · rw [← hfirst]
    exact floatOfInt31_mono hi h

theorem unitFloat_le_one (x : Word) : (unitFloat x).bits.toNat ≤ F32.one.bits.toNat := by
  rw [unitFloat_eq]
  exact floatOfInt31_le_one (int31_le x)

/-! ### The bipolar draw -/

/-- The bipolar draw lies in [-1, 1] (40_rng_vgen.md R204). -/
theorem bipolarFloat_bounds (x : Word) :
    F32.ge (bipolarFloat x) (F32.neg F32.one) = true ∧ F32.ge F32.one (bipolarFloat x) = true := by
  have htwo : F32.mul F32.two F32.one = F32.two := by decide +kernel
  have hle := F32.mul_mono F32.plain_two F32.plain_one le_rfl (unitFloat_le_one x)
  rw [htwo] at hle
  exact F32.ge_sub_one_of_le_two hle

end Sys2Proof.Machine
end

section
open Sys2Proof Sys2Proof.Machine

/-- Settles O24: the step has a left inverse, the float draw is monotone, and the bipolar draw is a rounded difference of
at most 1 in magnitude. -/
theorem drawRanges : Obligations.DrawRanges := by
  unfold Obligations.DrawRanges
  refine ⟨lcg_leftInverse.injective, fun x => ?_⟩
  have hle := int31_le x
  obtain ⟨h0, h1⟩ := F32.ge_of_le_one (unitFloat_le_one x)
  obtain ⟨hb0, hb1⟩ := bipolarFloat_bounds x
  refine ⟨h0, h1, ?_, ?_, fun h => ?_, hb0, hb1⟩ <;> rw [unitFloat_eq]
  · exact (floatOfInt31_eq_zero_iff hle).trans (BitVec.toNat_inj (y := 0))
  · exact floatOfInt31_eq_one_iff hle
  · exact (congrArg floatOfInt31 h).trans floatOfInt31_belowOne
end

section
/-!
The generator commands (40_rng_vgen.md R210-R216): what each resolves and refuses, and the state after it.
-/

namespace Sys2Proof.Machine

/-- A command is refused with the cause that its check gives (60_exceptions.md R540). -/
theorem refuses_of_check {α : Type} {i : Instr} {r : Except Cause α} {c : Cause} (hi : instrError i = causeOf r)
    (hr : r = .error c) : Refuses i c :=
  refuses_of_instrError (hi.trans (causeOf_eq_some.2 hr))

/-! ### RNGSEED and the draws -/

/-- A command that reserves CH, SEL and N refuses any of them that is not 0. -/
theorem noFieldsCheck_reserved {ch : BitVec 2} {sel n : BitVec 12} (h : ch ≠ 0 ∨ sel ≠ 0 ∨ n ≠ 0) :
    noFieldsCheck ch sel n = .error .reserved :=
  if_pos (by simpa [or_assoc] using h)

theorem exec_rngseed {seed : Word} {s : State} {rest : List Word}
    (hs : s.cmdFifo = encode (.rngseed 0 0 0 seed) ++ rest) :
    exec (.rngseed 0 0 0 seed) s = .next (State.completed { s with x := seed } 2 rest) :=
  congrArg Host.Outcome.next (State.consume_eq (s := { s with x := seed }) hs rfl)

/-- A draw with room for its response: X takes its successor, and what the draw shows of it is pushed. -/
theorem drawCommand_of_room (op : BitVec 6) (shown : Word → Word) {s : State} {w : Word} {rest : List Word}
    (hl : s.rspFifo.length < 64) (hs : s.cmdFifo = w :: rest) :
    drawCommand op shown 0 0 0 s = .next (State.completed
      { s with x := 22695477#32 * s.x + 1#32, rspFifo := s.rspFifo ++ [shown (22695477#32 * s.x + 1#32)] } 1 rest) := by
  have hlcg : lcg s.x = 22695477#32 * s.x + 1#32 := congrFun lcg_eq s.x
  have hc : (s.drawRng shown).cmdFifo = [w] ++ rest := hs
  rw [drawCommand, whenRoom_room hl, ← hlcg]
  exact congrArg Host.Outcome.next (State.consume_eq hc rfl)

/-! ### VGEN and VGENX -/

theorem vgenCheck_of_le {n : BitVec 12} (h1 : 1 ≤ n.toNat) (h2 : n.toNat ≤ 1024) : vgenCheck 0 0 n = .ok n.toNat :=
  (countCheck_eq n 1024).trans (if_neg (by omega))

theorem vgenCheck_reserved {ch : BitVec 2} {sel : BitVec 12} (n : BitVec 12) (h : ch ≠ 0 ∨ sel ≠ 0) :
    vgenCheck ch sel n = .error .reserved :=
  if_pos (by simpa using h)

theorem vgenCheck_badN {n : BitVec 12} (h : n.toNat = 0 ∨ 1024 < n.toNat) : vgenCheck 0 0 n = .error .badN :=
  (countCheck_eq n 1024).trans (if_pos h)

/-- VGENX refuses what VGEN refuses, before it looks at cs (60_exceptions.md R543). -/
theorem vgenxCheck_of_error {ch : BitVec 2} {sel n : BitVec 12} {c : Cause} (cs : Word)
    (h : vgenCheck ch sel n = .error c) : vgenxCheck ch sel n cs = .error c := by
  rw [vgenxCheck, h]

/-- VGENX with a legal count refuses a NaN and clamps any other cs (40_rng_vgen.md R216). -/
theorem vgenxCheck_of_le {n : BitVec 12} (cs : Word) (h1 : 1 ≤ n.toNat) (h2 : n.toNat ≤ 1024) :
    vgenxCheck 0 0 n cs =
      if F32.isNaN ⟨cs⟩ then .error .badValue else .ok (n.toNat, F32.clamp ⟨cs⟩ F32.zero F32.one) := by
  rw [vgenxCheck, vgenCheck_of_le h1 h2]

/-- The state after a vector of n values is stored from VEC[0] and the command is consumed. -/
theorem State.storeVec_completed (s : State) {vs : List F32} {n : Nat} (hn : vs.length = n) (len : Nat)
    (rest : List Word) {t : State} (ht : t = (State.storeFrom .vec 0 vs s).completed len rest) :
    (∀ (k : Nat) (v : F32), vs[k]? = some v → t.wordAt (0x20000 + 4 * k) = some v.bits) ∧
    (∀ a : Nat, ¬ (0x20000 ≤ a ∧ a < 0x20000 + 4 * n) → t.mem.readByte a = s.mem.readByte a) ∧
    (∀ a : Nat, a ∈ t.written ↔ a ∈ s.written ∨ ∃ k < n, a = 0x20000 + 4 * k) ∧
    { t with mem := s.mem, written := s.written } = s.completed len rest := by
  subst hn ht
  refine ⟨fun k v hv => ?_, fun a ha => ?_, fun a => ?_, ?_⟩
  · have hw := State.storeFrom_word .vec 0 vs s hv
    rwa [Nat.zero_add] at hw
  · exact State.storeFrom_readByte .vec 0 vs s (by rw [Region.addr, Region.base]; omega)
  · have hw := State.storeFrom_written .vec 0 vs s a
    simp only [Nat.zero_add] at hw
    exact hw
  · exact congrArg (fun u : State => u.completed len rest) (State.storeFrom_eq .vec 0 vs s)

theorem State.consume_storeFrom (r : Region) (k : Nat) (vs : List F32) {s : State} {ws rest : List Word} {len : Nat}
    (hs : s.cmdFifo = ws ++ rest) (hl : ws.length = len) :
    (State.storeFrom r k vs s).consume len = (State.storeFrom r k vs s).completed len rest :=
  State.consume_eq ((State.storeFrom_cmdFifo r k vs s).trans hs) hl

theorem exec_vgen {n : BitVec 12} {seed : Word} {s : State} {rest : List Word} (h1 : 1 ≤ n.toNat) (h2 : n.toNat ≤ 1024)
    (hs : s.cmdFifo = encode (.vgen 0 0 n seed) ++ rest) : exec (.vgen 0 0 n seed) s =
      .next ((State.storeFrom .vec 0 (generate seed n.toNat) s).completed 2 rest) := by
  rw [exec, execVgen, vgenCheck_of_le h1 h2, checked_ok, State.consume_storeFrom (len := 2) _ _ _ hs rfl]

theorem exec_vgenx {n : BitVec 12} {seed cs : Word} {s : State} {rest : List Word} (h1 : 1 ≤ n.toNat)
    (h2 : n.toNat ≤ 1024) (hcs : F32.isNaN ⟨cs⟩ = false) (hs : s.cmdFifo = encode (.vgenx 0 0 n seed cs) ++ rest) :
    exec (.vgenx 0 0 n seed cs) s = .next ((State.storeFrom .vec 0
      (generateX seed n.toNat (F32.clamp ⟨cs⟩ F32.zero F32.one)) s).completed 3 rest) := by
  rw [exec, execVgenx, vgenxCheck_of_le cs h1 h2, hcs, if_neg Bool.false_ne_true, checked_ok,
    State.consume_storeFrom (len := 3) _ _ _ hs rfl]

end Sys2Proof.Machine
end

section
open Sys2Proof Sys2Proof.Machine

/-- Settles O22: RNGSEED passes its check on zero fields alone, and then stores the seed. -/
theorem rngseedStoresSeed : Obligations.RngseedStoresSeed :=
  ⟨fun _ _ _ => exec_rngseed, fun _ _ _ _ h => refuses_of_check rfl (noFieldsCheck_reserved h)⟩

/-- Settles O23: the four draws are one command that differs in what it shows of the successor of X. -/
theorem drawsPushSuccessor : Obligations.DrawsPushSuccessor := by
  unfold Obligations.DrawsPushSuccessor
  refine
    ⟨fun _ _ => drawCommand_of_room _ _, fun _ _ _ h => refuses_of_check rfl (noFieldsCheck_reserved h),
      fun _ _ _ _ => whenRoom_full,
    fun _ _ => drawCommand_of_room _ _, fun _ _ _ h => refuses_of_check rfl (noFieldsCheck_reserved h),
      fun _ _ _ _ => whenRoom_full,
    fun _ _ => drawCommand_of_room _ _, fun _ _ _ h => refuses_of_check rfl (noFieldsCheck_reserved h),
      fun _ _ _ _ => whenRoom_full,
    fun _ _ => drawCommand_of_room _ _, fun _ _ _ h => refuses_of_check rfl (noFieldsCheck_reserved h),
      fun _ _ _ _ => whenRoom_full, fun x => ?_⟩
  have h := lcg_eq_zero_iff x
  rwa [lcg_eq] at h

/-- Settles O26: VGEN is one block store in VEC behind its check. -/
theorem vgenFillsVec : Obligations.VgenFillsVec :=
  ⟨fun n seed s rest h1 h2 hs =>
      ⟨_, exec_vgen h1 h2 hs, s.storeVec_completed (generate_length seed n.toNat) 2 rest rfl⟩,
    fun _ _ n _ h => refuses_of_check rfl (vgenCheck_reserved n h),
    fun _ _ h => refuses_of_check rfl (vgenCheck_badN h)⟩

/-- Settles O27: VGENX is VGEN with the blended vector, and looks at cs after the fields. -/
theorem vgenxFillsVec : Obligations.VgenxFillsVec :=
  ⟨fun n seed _ s rest h1 h2 hcs hs =>
      ⟨_, exec_vgenx h1 h2 hcs hs, s.storeVec_completed (generateX_length seed n.toNat _) 3 rest rfl⟩,
    fun _ _ n _ cs h => refuses_of_check rfl (vgenxCheck_of_error cs (vgenCheck_reserved n h)),
    fun _ _ cs h => refuses_of_check rfl (vgenxCheck_of_error cs (vgenCheck_badN h)),
    fun _ _ cs h1 h2 hcs => refuses_of_check rfl ((vgenxCheck_of_le cs h1 h2).trans (if_pos hcs))⟩
end

section
/-!
BQRESP (41_filters.md R264, R265): what it resolves and refuses, and the state after it.
-/

namespace Sys2Proof.Machine

theorem oneChan_maskOf (k : Chan) : oneChan (maskOf k) = some k := oneChan_eq_some.2 rfl

/-- A mask that is not one channel's resolves to none (30_encoding.md R162). -/
theorem oneChan_eq_none {ch : BitVec 2} (h : ch = 0b00 ∨ ch = 0b11) : oneChan ch = none := by
  rcases h with rfl | rfl <;> rfl

theorem biquadOfSel_eq_some {sel : BitVec 12} {u : BiquadRef} (h : UnitRef.ofSel sel = some (.biquad u)) :
    biquadOfSel sel = some u := by
  rw [biquadOfSel, h]

theorem biquadOfSel_eq_none {sel : BitVec 12} (h : ∀ u, UnitRef.ofSel sel ≠ some (.biquad u)) :
    biquadOfSel sel = none := by
  unfold biquadOfSel
  split
  · exact absurd ‹_› (h _)
  · rfl

theorem bqrespCheck_reserved (ch : BitVec 2) (sel : BitVec 12) {n : BitVec 12} (freq : Word) (h : n ≠ 0) :
    bqrespCheck ch sel n freq = .error .reserved :=
  if_pos (by simpa using h)

theorem bqrespCheck_badCh {ch : BitVec 2} (sel : BitVec 12) (freq : Word) (h : ch = 0b00 ∨ ch = 0b11) :
    bqrespCheck ch sel 0 freq = .error .badCh := by
  simp [bqrespCheck, oneChan_eq_none h]

theorem bqrespCheck_badSel (k : Chan) {sel : BitVec 12} (freq : Word) (h : ∀ u, UnitRef.ofSel sel ≠ some (.biquad u)) :
    bqrespCheck (maskOf k) sel 0 freq = .error .badSel := by
  simp [bqrespCheck, oneChan_maskOf, biquadOfSel_eq_none h]

/-- With a channel and a biquad resolved, BQRESP refuses a NaN alone (41_filters.md R265). -/
theorem bqrespCheck_of_biquad (k : Chan) {sel : BitVec 12} {u : BiquadRef} (freq : Word)
    (h : UnitRef.ofSel sel = some (.biquad u)) :
    bqrespCheck (maskOf k) sel 0 freq = if F32.isNaN ⟨freq⟩ then .error .badValue else .ok (k, u, ⟨freq⟩) := by
  simp [bqrespCheck, oneChan_maskOf, biquadOfSel_eq_some h]

theorem exec_bqresp {k : Chan} {sel : BitVec 12} {u : BiquadRef} {freq : Word} {s : State} {rest : List Word}
    (hu : UnitRef.ofSel sel = some (.biquad u)) (hf : F32.isNaN ⟨freq⟩ = false) (hl : s.rspFifo.length < 64)
    (hs : s.cmdFifo = encode (.bqresp (maskOf k) sel 0 freq) ++ rest) :
    exec (.bqresp (maskOf k) sel 0 freq) s = .next (State.completed
      { s with rspFifo := s.rspFifo ++ [(((s.chan k).biquad u).resp Config.transc s.glob.fs ⟨freq⟩).bits] } 2 rest) := by
  rw [exec, execBqresp, bqrespWith, whenRoom_room hl, bqrespCheck_of_biquad k freq hu, hf, if_neg Bool.false_ne_true,
    checked_ok]
  exact congrArg Host.Outcome.next (State.consume_eq (s := s.pushRsp _) hs rfl)

end Sys2Proof.Machine
end

section
open Sys2Proof Sys2Proof.Machine

/-- Settles O28: BQRESP pushes one response behind its check, and the response is the root of the guarded power. -/
theorem bqrespPushesResponse : Obligations.BqrespPushesResponse :=
  ⟨fun _ _ _ _ _ _ => exec_bqresp,
    fun ch sel _ freq h => refuses_of_check rfl (bqrespCheck_reserved ch sel freq h),
    fun _ sel freq h => refuses_of_check rfl (bqrespCheck_badCh sel freq h),
    fun k _ freq h => refuses_of_check rfl (bqrespCheck_badSel k freq h),
    fun k _ _ freq hu hf => refuses_of_check rfl ((bqrespCheck_of_biquad k freq hu).trans (if_pos hf)),
    fun _ _ _ _ _ => whenRoom_full,
    fun _ _ _ _ => ⟨_, _, _, _, _, _, _, rfl, rfl, rfl, rfl, rfl, rfl, rfl, rfl⟩⟩
end

section
/-!
The sample steps of the units (41_filters.md R251, R252, R262; 42_allpass_delay.md R302-R306, R312; 43_multitap.md R363),
with delays counted back from the write index inside the buffer.
-/

namespace Sys2Proof

/-- The zeros of binary32 are +0 and -0 (00_scope.md R12). -/
theorem F32.isZero_iff (x : F32) : x.isZero = true ↔ x.bits = 0x00000000 ∨ x.bits = 0x80000000 := by
  simp only [F32.isZero, Bool.and_eq_true, beq_iff_eq, F32.expo_eq, F32.frac_eq]
  bv_omega

end Sys2Proof

namespace Sys2Proof.Machine

/-- The new Y of a one-pole step, by the two zeros of binary32 (41_filters.md R251). -/
theorem OnePole.nextY_eq (u : OnePole) (x : F32) : u.nextY x =
    if (x.bits = 0x00000000 ∨ x.bits = 0x80000000) ∧ F32.lt (F32.abs u.y) ⟨0x33D6BF95⟩ = true then ⟨0x00000000⟩
    else F32.add (F32.mul u.b0 x) (F32.mul u.a1 u.y) := by
  simp only [OnePole.nextY, Bool.and_eq_true, F32.isZero_iff, Config.epsSnap, F32.zero]

/-- The taps of a tap in range lie at most a buffer's length back. -/
theorem Tap.inRange.delays_le {n : Nat} {t : Tap} (hn : 2 ≤ n) (h : t.inRange n = true) :
    t.sd ≤ n ∧ t.da ≤ n ∧ t.db ≤ n := by
  obtain ⟨-, -, hsd, -, -, hda, hdb⟩ := Tap.inRange_iff.1 h
  omega

/-- The read of a modulated tap after the LFO part (42_allpass_delay.md R303, R304): the LFO moves the two taps and their
weights, and neither the write index nor a cell. -/
theorem Tap.read_advance (T : Transc) (i : Bool) {n : Nat} {t : Tap} (hn : tapLength n) (h : t.inRange n = true) :
    (t.advance T n).read i n =
      if i then F32.add (F32.mul (Buf.get t.buf ((t.widx + n - (t.advance T n).da) % n)) (t.advance T n).ga)
        (F32.mul (Buf.get t.buf ((t.widx + n - (t.advance T n).db) % n)) (t.advance T n).gb)
      else Buf.get t.buf ((t.widx + n - (t.advance T n).da) % n) := by
  obtain ⟨-, -, hlen, -⟩ := tapLength_facts hn
  obtain ⟨hrange, hbuf⟩ := t.advance_inRange T hn h
  obtain ⟨-, hda, hdb⟩ := Tap.inRange.delays_le (by omega) hrange
  rw [Tap.read, wrapBack_eq hda, wrapBack_eq hdb, hbuf, Tap.advance_widx]

/-- Writing a sample after the LFO part of a modulated read (42_allpass_delay.md R305, R306). -/
theorem Tap.push_advance (T : Transc) {n : Nat} {t : Tap} (x : F32) (hn : tapLength n) (h : t.inRange n = true) :
    (t.advance T n).push n x = { t.advance T n with buf := Buf.set t.buf t.widx x, widx := (t.widx + 1) % n } := by
  rw [Tap.push, (t.advance_inRange T hn h).2, Tap.advance_widx]

/-- A step of a plain delay reads through its advanced tap and then writes (42_allpass_delay.md R306). -/
theorem Tap.step_eq (T : Transc) (i : Bool) (t : Tap) (x : F32) : t.step T i x =
    ((t.advance T Config.nMd).push Config.nMd x, (t.advance T Config.nMd).read i Config.nMd) := rfl

/-- An unmodulated all-pass step leaves the LFO alone and reads at SD (42_allpass_delay.md R305). -/
theorem Apf.delayed_of_unmodulated (T : Transc) (i : Bool) {u : Apf} (h : u.tap.inRange Config.nAp = true)
    (hm : u.modEn = false) :
    u.delayed T i = (u.tap, Buf.get u.tap.buf ((u.tap.widx + Config.nAp - u.tap.sd) % Config.nAp)) := by
  rw [Apf.delayed, hm, if_neg Bool.false_ne_true, wrapBack_eq (Tap.inRange.delays_le (by decide) h).1]

/-- A modulated all-pass step reads through its advanced tap (42_allpass_delay.md R305). -/
theorem Apf.delayed_of_modulated (T : Transc) (i : Bool) {u : Apf} (hm : u.modEn = true) :
    u.delayed T i = (u.tap.advance T Config.nAp, (u.tap.advance T Config.nAp).read i Config.nAp) := by
  rw [Apf.delayed, hm, if_pos rfl, Tap.modread]

/-- An all-pass step on its delayed value (42_allpass_delay.md R305). -/
theorem Apf.step_of_delayed (T : Transc) (i : Bool) {u : Apf} (x : F32) {t : Tap} {r : F32}
    (h : u.delayed T i = (t, r)) : u.step T i x =
      ({ u with tap := t.push Config.nAp (F32.add x (F32.mul r u.g)) },
        F32.sub r (F32.mul (F32.add x (F32.mul r u.g)) u.g)) := by
  rw [Apf.step, h]

end Sys2Proof.Machine
end

section
open Sys2Proof Sys2Proof.Machine

/-- Settles O35: each step is its definition, with the delays of a tap in range counted back inside the buffer, the cell
written by the law of a set buffer, and the stages of a diffuser in series. -/
theorem unitSteps : Obligations.UnitSteps := by
  unfold Obligations.UnitSteps
  refine ⟨fun u x => ⟨u.nextY x, u.nextY_eq x, rfl⟩, fun _ _ => ⟨rfl, rfl⟩, fun T n _ => Tap.advance_of_lt T n,
    fun T n t h => ⟨_, _, rfl, rfl, Tap.advance_of_ge T n h⟩, fun T i u x hr hb hm => ?_, fun T i u x hr hb hm => ?_,
    fun T i t x hr hb => ?_, fun T i d x hd => ?_, fun T i d x => ?_, fun m x hb hw => ?_⟩
  · exact ⟨_, _, _, rfl, rfl, Apf.step_of_delayed T i x (Apf.delayed_of_unmodulated T i hr hm),
      fun k => Buf.get_set hb _ k _⟩
  · refine ⟨_, _, _, _, _, Buf.set u.tap.buf u.tap.widx _, rfl, rfl, rfl, rfl, rfl, ?_, fun k => Buf.get_set hb _ k _⟩
    rw [Apf.step_of_delayed T i x (Apf.delayed_of_modulated T i hm), Tap.read_advance T i (.inl rfl) hr,
      Tap.push_advance T _ (.inl rfl) hr]
    rfl
  · refine ⟨_, _, _, Buf.set t.buf t.widx x, rfl, rfl, rfl, ?_, fun k => Buf.get_set hb _ k _⟩
    rw [Tap.step_eq, Tap.read_advance T i (.inr rfl) hr, Tap.push_advance T x (.inr rfl) hr]
    rfl
  · obtain ⟨y, hy0, hy, hout⟩ := Diff.chain_series T i (firstTwelve_nodup d.count) d.stages x
    refine ⟨y, hy0, fun k hk => hy k k (firstTwelve_getElem? d.count k hk), hout.trans (congrArg y ?_)⟩
    simpa [firstTwelve] using hd
  · exact ⟨rfl, fun k hk => Diff.chain_get T i _ _ x (by rw [mem_firstTwelve]; omega)⟩
  · exact ⟨_, rfl, fun k => Buf.get_set hb _ k x, Mt.sumTaps_eq_foldl m _ _ _⟩
end

section
/-!
SETFS (45_control.md R454, R455): what it resolves and refuses, what a clear keeps and what it zeroes in a channel, and the
derivations and design formulas of the filters (41_filters.md R250, R255-R261).
-/

namespace Sys2Proof.Machine

/-! ### The command -/

theorem setfsCheck_reserved {ch : BitVec 2} {sel n : BitVec 12} (fs : Word) (h : ch ≠ 0 ∨ sel ≠ 0 ∨ n ≠ 0) :
    setfsCheck ch sel n fs = .error .reserved :=
  if_pos (by simpa [or_assoc] using h)

/-- With its fields zero, SETFS refuses a NaN alone (45_control.md R454). -/
theorem setfsCheck_zero (fs : Word) : setfsCheck 0 0 0 fs =
    if F32.isNaN ⟨fs⟩ then .error .badValue else .ok (F32.clamp ⟨fs⟩ Config.fsMin Config.fsMax) := rfl

theorem exec_setfs {fs : Word} {s : State} {rest : List Word} (hf : F32.isNaN ⟨fs⟩ = false)
    (hs : s.cmdFifo = encode (.setfs 0 0 0 fs) ++ rest) : exec (.setfs 0 0 0 fs) s =
      .next ((s.setRate Config.transc (F32.clamp ⟨fs⟩ Config.fsMin Config.fsMax)).completed 2 rest) := by
  rw [exec, execSetfs, setfsWith, setfsCheck_zero, hf, if_neg Bool.false_ne_true, checked_ok]
  exact congrArg Host.Outcome.next (State.consume_eq (s := s.setRate _ _) hs rfl)

/-! ### Clearing keeps the pointers -/

@[simp] theorem Diff.clear_pointers (d : Diff) : d.clear.pointers = d.pointers := by
  simp only [Diff.pointers, Diff.clear, Twelve.get_map]
  rfl

theorem Line.clear_pointers (l : Line) : l.clear.pointers = l.pointers := by
  simp only [Line.pointers, Line.clear, Diff.clear_pointers]
  rfl

/-- CLEAR_ALL moves no pointer (45_control.md R454). -/
theorem Channel.clearAll_pointers (c : Channel) : c.clearAll.pointers = c.pointers := by
  simp only [Channel.pointers, Channel.clearAll, Twelve.get_map, Line.clear_pointers, Diff.clear_pointers]
  rfl

/-! ### Clearing zeroes the samples -/

/-- CLEAR_ALL empties every sample buffer (45_control.md R459, R462). -/
theorem Channel.clearAll_buffers (c : Channel) : ∀ b ∈ c.clearAll.buffers .chan, b = [] := by
  intro b hb
  simp [Channel.buffers, Channel.clearAll, Channel.apf, Channel.diff, Diff.clear, Apf.clear, Line.clear, Tap.clear,
    Mt.clear, Fifo.clear] at hb
  tauto

theorem Biquad.clear_history (u : Biquad) {g : BiquadField} (hg : (FieldRef.biquad .bqx g).history = true) :
    u.clear.field g = 0 := by
  cases g with
  | x1 | x2 | y1 | y2 => rfl
  | _ => cases hg

/-- CLEAR_ALL sets every filter history to +0 (45_control.md R459, R462). -/
theorem Channel.clearAll_history (c : Channel) {f : FieldRef} (hf : f.history = true) : c.clearAll.readField f = 0 := by
  cases f with
  | onePole r g =>
    have hy : (FieldRef.onePole r g).history = true → g = .y := by cases g <;> simp [FieldRef.history]
    obtain rfl := hy hf
    cases r with
    | damp l =>
      simp only [Channel.readField, Channel.onePole, Channel.clearAll, Twelve.get_map]
      rfl
    | _ => rfl
  | biquad r g =>
    have hg : (FieldRef.biquad .bqx g).history = true := by rw [← hf]; cases g <;> rfl
    cases r with
    | bqx => exact Biquad.clear_history _ hg
    | lsh l | hsh l =>
      simp only [Channel.readField, Channel.biquad, Channel.clearAll, Twelve.get_map]
      exact Biquad.clear_history _ hg
  | _ => cases hf

/-! ### DERIVE_ALL -/

theorem Diff.diffDerived_deriveAll (T : Transc) (fs : F32) (seed : Word) (cs delayMs amtMs rateHz g : F32) (count : Word)
    (modEn : Bool) (d : Diff) :
    DiffDerived (d.deriveAll T fs seed cs delayMs amtMs rateHz g count.toNat modEn)
      ((d.reseed seed cs).derive T fs delayMs amtMs rateHz g) count g modEn :=
  ⟨rfl, rfl, rfl, rfl, rfl, rfl, rfl, rfl, rfl, fun j => by
    simp only [Diff.deriveAll, Diff.setModEn, Diff.setG, Diff.setCount, Twelve.get_map]⟩

/-- UpdateLines on line i sets its plain delay, and its gain by the delay in samples (44_fdn_channel.md R392). -/
theorem Line.update_loop (T : Transc) (v : List F32) (nl na nr decS : F32) (i : Fin 12) (l : Line) :
    (Line.update T v nl na nr decS i l).gain = lineGain T (Line.update T v nl na nr decS i l).mdly.sd decS ∧
      (Line.update T v nl na nr decS i l).mdly = Tap.refresh 192000 { l.mdly with
        amt := lineJitter na v (12 + i)
        rate := lineJitter nr v (24 + i)
        sd := lineDelay nl (lineJitter na v (12 + i)) v i } :=
  ⟨rfl, rfl⟩

/-- UpdateLines leaves the FIFO and the filters of a line alone (44_fdn_channel.md R392). -/
theorem Line.update_frame (T : Transc) (v : List F32) (nl na nr decS : F32) (i : Fin 12) (l : Line) :
    (Line.update T v nl na nr decS i l).fb = l.fb ∧ (Line.update T v nl na nr decS i l).lsh = l.lsh ∧
      (Line.update T v nl na nr decS i l).hsh = l.hsh ∧ (Line.update T v nl na nr decS i l).damp = l.damp := by
  obtain ⟨t, g, h⟩ := Line.update_shape T v nl na nr decS i l
  rw [h]
  exact ⟨rfl, rfl, rfl, rfl⟩

/-! ### The filters -/

theorem OnePole.derive_eq (T : Transc) (fs fc : F32) (u : OnePole) : ∃ fcc x nn alpha : F32,
    fcc = F32.clamp fc ⟨0x00000000⟩ (F32.mul ⟨0x3EFF7CEE⟩ fs) ∧ x = F32.div (F32.mul ⟨0x40C90FDB⟩ fcc) fs ∧
    nn = F32.sub ⟨0x40000000⟩ (T.cos32 x) ∧
    alpha = F32.sub nn (F32.sqrt (F32.sub (F32.mul nn nn) ⟨0x3F800000⟩)) ∧
    u.derive T fs fc = { u with cutoff := fcc, a1 := alpha, b0 := F32.sub ⟨0x3F800000⟩ alpha } :=
  ⟨_, _, _, _, rfl, rfl, rfl, rfl, rfl⟩

/-- A derived biquad has the coefficients of the design of its TYPE (41_filters.md R256-R261). -/
theorem Biquad.designed_derive (T : Transc) (fs : F32) (type : BqType) (freq gainDb q : F32) (u d : Biquad)
    (hd : d = u.derive T fs type freq gainDb q) :
    BqDesigned T fs d (T.exp10 (F32.div (F32.abs d.gainDb) ⟨0x41A00000⟩))
      (T.tan32 (F32.div (F32.mul ⟨0x40490FDB⟩ d.freq) fs)) := by
  refine ⟨_, _, _, _, _, _, _, _, _, rfl, rfl, rfl, rfl, rfl, rfl, rfl, rfl, rfl, ?_⟩
  subst hd
  cases type with
  | lp6 | hp6 | lp | hp | bp | notch => exact ⟨_, rfl, rfl, rfl, rfl, rfl, rfl⟩
  | peak | lsh | hsh =>
    rw [Biquad.derive]
    generalize hc : design _ _ _ _ _ _ = coef
    by_cases hg : F32.ge (clampGain gainDb) F32.zero = true
    · obtain rfl : _ = coef := (if_pos hg).symm.trans hc
      exact (if_pos hg).mpr ⟨_, rfl, rfl, rfl, rfl, rfl, rfl⟩
    · obtain rfl : _ = coef := (if_neg hg).symm.trans hc
      exact (if_neg hg).mpr ⟨_, rfl, rfl, rfl, rfl, rfl, rfl⟩

end Sys2Proof.Machine
end

section
open Sys2Proof Sys2Proof.Machine

/-- Settles O18: the command by its check, the cleared channel by what a clear keeps and zeroes, the derived one unit by
unit, and the filters by the equations of their designs. -/
theorem setfsDerivesAndClears : Obligations.SetfsDerivesAndClears := by
  unfold Obligations.SetfsDerivesAndClears
  refine ⟨fun _ _ _ => exec_setfs, fun _ _ _ fs h => refuses_of_check rfl (setfsCheck_reserved fs h),
    fun fs h => refuses_of_check rfl ((setfsCheck_zero fs).trans (if_pos h)), fun T fs k c => ?_,
    fun T fs k c d hd => ?_, fun T fs fc u => u.derive_eq T fs fc, by decide, fun T fs type freq gainDb q u d hd => ?_⟩
  · exact ⟨(Channel.clearAll_regs _).trans (Channel.deriveAll_regs ..),
      (Channel.clearAll_pointers _).trans (Channel.derived_deriveAll T fs k c).pointers, Channel.clearAll_buffers _,
      fun _ => Channel.clearAll_history _⟩
  · have h := Channel.allDerived_deriveAll T fs k c
    rw [← hd] at h
    refine ⟨h.regs, ?_, h.hpc, h.lpc, h.pre, ?_, ?_, h.bqx, ?_, h.nomLine, h.decaySamples, fun l => ?_⟩
    · rw [h.cs]; cases k <;> rfl
    · rw [h.mt, h.cs]
    · rw [h.ed, h.cs]
      exact Diff.diffDerived_deriveAll ..
    · rw [h.lineVec, h.cs]
    · rw [h.line, Line.deriveAll, lineDiffSeed, h.cs, h.lineVec, h.nomLine, h.decaySamples, Line.update_dif]
      obtain ⟨hfb, hlsh, hhsh, hdamp⟩ := Line.update_frame T _ _ _ _ _ l _
      obtain ⟨hgain, hmdly⟩ := Line.update_loop T _ _ _ _ _ l _
      exact ⟨Diff.diffDerived_deriveAll .., hlsh, hhsh, hdamp, hfb, hgain, hmdly⟩
  · have hdesign := Biquad.designed_derive T fs type freq gainDb q u d hd
    subst hd
    exact ⟨rfl, rfl, rfl, rfl, rfl, rfl, rfl, rfl, hdesign⟩
end

section
/-!
What a register write changes in a channel (45_control.md R456): the frame of every effect of the table, unit by unit, and
the registers that give each effect.
-/

namespace Sys2Proof.Machine

/-! ### The registers of an effect -/

/-- A register outside the registers of some effects has none of them; the table is gone through register by register. -/
theorem CReg.effect_not_mem {es : List Effect} {rs : List CReg} (h : ∀ q ∈ allCRegs, q.effect ∈ es → q ∈ rs) {r : CReg}
    (hr : r ∉ rs) : r.effect ∉ es :=
  mt (h r (mem_allCRegs r)) hr

/-! ### What an effect leaves alone -/

/-- The line m is l after an effect: only the effects of a unit change the unit. -/
structure Line.WriteFrame (e : Effect) (l m : Line) : Prop where
  fb : m.fb = l.fb
  loop : e ∉ [.lines, .xseed] → m.gain = l.gain ∧ m.mdly = l.mdly
  dif : e ∉ [.enable .lineDif, .ldif, .ldifCount, .ldifG, .ldifMod, .ldifSeed, .xseed] → m.dif = l.dif
  lsh : e ∉ [.enable .lineLsh, .lsh] → m.lsh = l.lsh
  hsh : e ∉ [.enable .lineHsh, .hsh] → m.hsh = l.hsh
  damp : e ∉ [.enable .lineDamp, .damp] → m.damp = l.damp

/-- The channel d is c after an effect: only the effects of a unit or of a derived value change it. -/
structure Channel.WriteFrame (e : Effect) (c d : Channel) : Prop where
  hpc : e ∉ [.enable .hpc, .hpc] → d.hpc = c.hpc
  lpc : e ∉ [.enable .lpc, .lpc] → d.lpc = c.lpc
  pre : e ∉ [.pre] → d.pre = c.pre
  mt : e ∉ [.enable .mt, .mt, .mtSeed, .xseed] → d.mt = c.mt
  ed : e ∉ [.enable .ed, .ed, .edCount, .edG, .edMod, .edSeed, .xseed] → d.ed = c.ed
  bqx : e ∉ [.bqx] → d.bqx = c.bqx
  cs : e ∉ [.xseed] → d.cs = c.cs
  lineVec : e ∉ [.lines, .xseed] → d.lineVec = c.lineVec ∧ d.nomLine = c.nomLine ∧ d.decaySamples = c.decaySamples
  line : ∀ l, Line.WriteFrame e (c.lines.get l) (d.lines.get l)

section
variable {e : Effect}

theorem Line.WriteFrame.refl (l : Line) : Line.WriteFrame e l l :=
  ⟨rfl, fun _ => ⟨rfl, rfl⟩, fun _ => rfl, fun _ => rfl, fun _ => rfl, fun _ => rfl⟩

theorem Line.WriteFrame.trans {l m n : Line} (h : Line.WriteFrame e l m) (g : Line.WriteFrame e m n) :
    Line.WriteFrame e l n where
  fb := g.fb.trans h.fb
  loop he := ⟨(g.loop he).1.trans (h.loop he).1, (g.loop he).2.trans (h.loop he).2⟩
  dif he := (g.dif he).trans (h.dif he)
  lsh he := (g.lsh he).trans (h.lsh he)
  hsh he := (g.hsh he).trans (h.hsh he)
  damp he := (g.damp he).trans (h.damp he)

theorem Line.WriteFrame.setDif (h : e ∈ [.enable .lineDif, .ldif, .ldifCount, .ldifG, .ldifMod, .ldifSeed, .xseed])
    (l : Line) (d : Diff) : Line.WriteFrame e l { l with dif := d } :=
  ⟨rfl, fun _ => ⟨rfl, rfl⟩, absurd h, fun _ => rfl, fun _ => rfl, fun _ => rfl⟩

theorem Line.WriteFrame.setLsh (h : e ∈ [.enable .lineLsh, .lsh]) (l : Line) (u : Biquad) :
    Line.WriteFrame e l { l with lsh := u } :=
  ⟨rfl, fun _ => ⟨rfl, rfl⟩, fun _ => rfl, absurd h, fun _ => rfl, fun _ => rfl⟩

theorem Line.WriteFrame.setHsh (h : e ∈ [.enable .lineHsh, .hsh]) (l : Line) (u : Biquad) :
    Line.WriteFrame e l { l with hsh := u } :=
  ⟨rfl, fun _ => ⟨rfl, rfl⟩, fun _ => rfl, fun _ => rfl, absurd h, fun _ => rfl⟩

theorem Line.WriteFrame.setDamp (h : e ∈ [.enable .lineDamp, .damp]) (l : Line) (u : OnePole) :
    Line.WriteFrame e l { l with damp := u } :=
  ⟨rfl, fun _ => ⟨rfl, rfl⟩, fun _ => rfl, fun _ => rfl, fun _ => rfl, absurd h⟩

variable (c : Channel)

theorem Channel.WriteFrame.refl : Channel.WriteFrame e c c :=
  ⟨fun _ => rfl, fun _ => rfl, fun _ => rfl, fun _ => rfl, fun _ => rfl, fun _ => rfl, fun _ => rfl,
    fun _ => ⟨rfl, rfl, rfl⟩, fun _ => .refl _⟩

theorem Channel.WriteFrame.setHpc (h : e ∈ [.enable .hpc, .hpc]) (u : OnePole) :
    Channel.WriteFrame e c { c with hpc := u } :=
  { Channel.WriteFrame.refl c with hpc := absurd h }

theorem Channel.WriteFrame.setLpc (h : e ∈ [.enable .lpc, .lpc]) (u : OnePole) :
    Channel.WriteFrame e c { c with lpc := u } :=
  { Channel.WriteFrame.refl c with lpc := absurd h }

theorem Channel.WriteFrame.setMt (h : e ∈ [.enable .mt, .mt, .mtSeed, .xseed]) (m : Mt) :
    Channel.WriteFrame e c { c with mt := m } :=
  { Channel.WriteFrame.refl c with mt := absurd h }

theorem Channel.WriteFrame.setEd (h : e ∈ [.enable .ed, .ed, .edCount, .edG, .edMod, .edSeed, .xseed]) (d : Diff) :
    Channel.WriteFrame e c { c with ed := d } :=
  { Channel.WriteFrame.refl c with ed := absurd h }

theorem Channel.WriteFrame.setLines {ls : Twelve Line} (h : ∀ l, Line.WriteFrame e (c.lines.get l) (ls.get l)) :
    Channel.WriteFrame e c { c with lines := ls } :=
  { Channel.WriteFrame.refl c with line := h }

theorem Channel.WriteFrame.mapLines {f : Line → Line} (h : ∀ l, Line.WriteFrame e l (f l)) :
    Channel.WriteFrame e c (c.mapLines f) :=
  .setLines c (fun l => by rw [Twelve.get_map]; exact h _)

end

section
variable (c : Channel)

theorem Line.update_writeFrame {e : Effect} (h : e ∈ [.lines, .xseed]) (T : Transc) (v : List F32)
    (nl na nr decS : F32) (i : Fin 12) (l : Line) : Line.WriteFrame e l (Line.update T v nl na nr decS i l) := by
  obtain ⟨hfb, hlsh, hhsh, hdamp⟩ := Line.update_frame T v nl na nr decS i l
  exact ⟨hfb, absurd h, fun _ => Line.update_dif .., fun _ => hlsh, fun _ => hhsh, fun _ => hdamp⟩

theorem Channel.get_updateLines (T : Transc) (fs : F32) (l : Fin 12) : (c.updateLines T fs).lines.get l =
    Line.update T (c.updateLines T fs).lineVec (c.updateLines T fs).nomLine (ms2s fs c.regs.lateLineModAmtMs)
      (hz2c fs c.regs.lateLineModRateHz) (c.updateLines T fs).decaySamples l (c.lines.get l) :=
  Twelve.get_mapIdx ..

theorem Channel.enableClear_writeFrame (t : EnableTarget) : Channel.WriteFrame (.enable t) c (c.enableClear t) := by
  cases t with
  | hpc => exact .setHpc c (by decide) _
  | lpc => exact .setLpc c (by decide) _
  | mt => exact .setMt c (by decide) _
  | ed => exact .setEd c (by decide) _
  | lineDif => exact .mapLines c (fun l => .setDif (by decide) l _)
  | lineLsh => exact .mapLines c (fun l => .setLsh (by decide) l _)
  | lineHsh => exact .mapLines c (fun l => .setHsh (by decide) l _)
  | lineDamp => exact .mapLines c (fun l => .setDamp (by decide) l _)

/-- An effect changes the units and the derived values that the table gives it, and no others (45_control.md R456). -/
theorem Channel.writeEffect_writeFrame (T : Transc) (fs : F32) (k : Chan) (e : Effect) (b : Bool) :
    Channel.WriteFrame e c (c.writeEffect T fs k e b) := by
  cases e with
  | none => exact .refl c
  | enable t =>
    cases b
    · exact .refl c
    · exact c.enableClear_writeFrame t
  | hpc => exact .setHpc c (by decide) _
  | lpc => exact .setLpc c (by decide) _
  | bqx =>
    obtain ⟨u, hu, -⟩ := Channel.deriveBqx_shape T fs c
    rw [Channel.writeEffect, hu]
    exact { Channel.WriteFrame.refl c with bqx := absurd (by decide) }
  | pre => exact { Channel.WriteFrame.refl c with pre := absurd (by decide) }
  | mt | mtSeed => exact .setMt c (by decide) _
  | ed | edCount | edG | edMod | edSeed => exact .setEd c (by decide) _
  | ldif | ldifCount | ldifG | ldifMod => exact .mapLines c (fun l => .setDif (by decide) l _)
  | ldifSeed => exact .setLines c (fun l => by rw [Twelve.get_mapIdx]; exact .setDif (by decide) _ _)
  | lsh => exact .mapLines c (fun l => .setLsh (by decide) l _)
  | hsh => exact .mapLines c (fun l => .setHsh (by decide) l _)
  | damp => exact .mapLines c (fun l => .setDamp (by decide) l _)
  | lines =>
    have hline : ∀ l, Line.WriteFrame .lines (c.lines.get l) ((c.updateLines T fs).lines.get l) := fun l => by
      rw [c.get_updateLines]
      exact Line.update_writeFrame (by decide) ..
    exact { Channel.WriteFrame.setLines c hline with lineVec := absurd (by decide) }
  | xseed =>
    have hline : ∀ l, Line.WriteFrame .xseed (c.lines.get l) ((c.reseedAll T fs k).lines.get l) := fun l => by
      rw [Channel.reseedAll, Channel.get_updateLines, Channel.reseedLdif, Twelve.get_mapIdx]
      exact (Line.WriteFrame.setDif (by decide) _ _).trans (Line.update_writeFrame (by decide) ..)
    exact { Channel.WriteFrame.setLines c hline with
      mt := absurd (by decide), ed := absurd (by decide), cs := absurd (by decide), lineVec := absurd (by decide) }

variable (T : Transc) (fs : F32) (k : Chan) (r : CReg) (v : Word)

/-- A register write changes the units and the derived values of the register's effect, and no others. -/
theorem Channel.writeReg_writeFrame : Channel.WriteFrame r.effect c (c.writeReg T fs k r v) :=
  have h := Channel.writeEffect_writeFrame { c with regs := c.regs.set r v } T fs k r.effect (c.regs.get r != v)
  ⟨h.hpc, h.lpc, h.pre, h.mt, h.ed, h.bqx, h.cs, h.lineVec, h.line⟩

/-! ### Pointers -/

theorem Channel.enableClear_pointers (t : EnableTarget) : (c.enableClear t).pointers = c.pointers := by
  cases t with
  | ed =>
    simp only [Channel.pointers, Channel.enableClear, Diff.clear_pointers]
  | lineDif =>
    simp only [Channel.pointers, Channel.enableClear, Channel.mapLines, Twelve.get_map, Line.pointers,
      Diff.clear_pointers]
  | lineLsh | lineHsh | lineDamp =>
    simp only [Channel.pointers, Channel.enableClear, Channel.mapLines, Twelve.get_map, Line.pointers]
  | _ => rfl

/-- No register write moves a pointer (45_control.md R454, R457). -/
theorem Channel.writeReg_pointers : (c.writeReg T fs k r v).pointers = c.pointers := by
  have hkept : ∀ (e : Effect) (b : Bool) (c : Channel), (c.writeEffect T fs k e b).pointers = c.pointers := by
    intro e b c
    by_cases h : ∃ t, e = .enable t
    · obtain ⟨t, rfl⟩ := h
      cases b
      · rfl
      · exact c.enableClear_pointers t
    · exact (Channel.derived_writeEffect T fs k e b c (not_exists.1 h)).pointers
  exact hkept _ _ { c with regs := c.regs.set r v }

/-! ### The effects -/

/-- A write of a register with a known effect has that effect on the channel as it is after the store. -/
theorem Channel.writeReg_of_mem (e : Effect) {rs : List CReg} (he : ∀ q ∈ rs, q.effect = e) {r : CReg} (hr : r ∈ rs) :
    c.writeReg T fs k r v = Channel.writeEffect T fs k e (c.regs.get r != v) { c with regs := c.regs.set r v } := by
  rw [Channel.writeReg, he r hr]

theorem Channel.get_mapLines (f : Line → Line) (l : Fin 12) : (c.mapLines f).lines.get l = f (c.lines.get l) :=
  Twelve.get_map ..

/-- A reseed of the line diffusers leaves the plain delays alone. The proof goes through the reseeded line's shape: the
kernel must not compare a reseeded line with the line itself, which would evaluate its delays. -/
theorem Channel.reseedLdif_mdly (l : Fin 12) : ((c.reseedLdif T fs).lines.get l).mdly = (c.lines.get l).mdly := by
  have hshape : ∃ d, (c.reseedLdif T fs).lines.get l = { c.lines.get l with dif := d } := ⟨_, Twelve.get_mapIdx ..⟩
  obtain ⟨d, hd⟩ := hshape
  rw [hd]

/-- What UpdateLines leaves in a channel and in line l, whose plain delay was t before (44_fdn_channel.md R392). -/
theorem Channel.updateLines_loop (l : Fin 12) {d : Channel} (hd : d = c.updateLines T fs) {t : Tap}
    (ht : (c.lines.get l).mdly = t) :
    d.lineVec = generateX d.regs.seedDelay 36 d.cs ∧ d.nomLine = ms2s fs d.regs.lateLineSizeMs ∧
      d.decaySamples = F32.max ⟨0x3F800000⟩ (s2s fs d.regs.lateLineDecayS) ∧
      (d.lines.get l).gain = lineGain T (d.lines.get l).mdly.sd d.decaySamples ∧
      (d.lines.get l).mdly = Tap.refresh 192000 { t with
        amt := lineJitter (ms2s fs d.regs.lateLineModAmtMs) d.lineVec (12 + l)
        rate := lineJitter (hz2c fs d.regs.lateLineModRateHz) d.lineVec (24 + l)
        sd := lineDelay d.nomLine (lineJitter (ms2s fs d.regs.lateLineModAmtMs) d.lineVec (12 + l)) d.lineVec l } := by
  subst hd ht
  refine ⟨rfl, rfl, rfl, ?_⟩
  rw [c.get_updateLines]
  exact Line.update_loop ..

end

end Sys2Proof.Machine
end

section
open Sys2Proof Sys2Proof.Machine

/-- Settles O16: the frame is that of the register's effect, and each group has its effect by the definition of it. -/
theorem writeEffects : Obligations.WriteEffects := by
  unfold Obligations.WriteEffects
  rintro T fs k r v c _ rfl
  have hframe := c.writeReg_writeFrame T fs k r v
  refine ⟨c.writeReg_regs .., c.writeReg_pointers T fs k r v,
    fun h => hframe.hpc (CReg.effect_not_mem (by decide) h),
    fun h => hframe.lpc (CReg.effect_not_mem (by decide) h),
    fun h => hframe.pre (CReg.effect_not_mem (by decide) (mt List.mem_singleton.1 h)),
    fun h => hframe.mt (CReg.effect_not_mem (by decide) h),
    fun h => hframe.ed (CReg.effect_not_mem (by decide) h),
    fun h => hframe.bqx (CReg.effect_not_mem (by decide) h),
    fun h => hframe.cs (CReg.effect_not_mem (by decide) (mt List.mem_singleton.1 h)), fun h => ?_,
    fun l => ⟨(hframe.line l).fb, fun h => (hframe.line l).dif (CReg.effect_not_mem (by decide) h),
      fun h => (hframe.line l).lsh (CReg.effect_not_mem (by decide) h),
      fun h => (hframe.line l).hsh (CReg.effect_not_mem (by decide) h),
      fun h => (hframe.line l).damp (CReg.effect_not_mem (by decide) h),
      fun h => ?damp, fun h => ?lsh, fun h => ?hsh, fun h => ?difCount, fun h => ?difG, fun h => ?difMod, fun h => ?dif,
      fun h => ?difSeed, fun h => ?loop, fun j => ⟨fun h => ?stageG, fun h => ?stageMod⟩⟩,
    fun h => by subst h; rfl, fun h => by subst h; rfl, fun h => by subst h; rfl, fun h => ?mt, fun h => ?mtSeed,
    fun h => ?ed, fun h => ?edSeed, fun type htype h => ?bqx, fun h => by subst h; rfl, fun h => by subst h; rfl,
    fun h => by subst h; rfl, fun j => ⟨fun h => ?edStageG, fun h => ?edStageMod⟩,
    fun h => by subst h; cases k <;> rfl⟩
  · have he : r.effect ∉ [.lines, .xseed] := CReg.effect_not_mem (by decide) h
    obtain ⟨hvec, hnom, hdecay⟩ := hframe.lineVec he
    exact ⟨hvec, hnom, hdecay, fun l => (hframe.line l).loop he⟩
  case damp => subst h; exact congrArg Line.damp (Channel.get_mapLines _ _ l)
  case lsh =>
    rw [c.writeReg_of_mem T fs k v .lsh (by decide) h]
    exact congrArg Line.lsh (Channel.get_mapLines _ _ l)
  case hsh =>
    rw [c.writeReg_of_mem T fs k v .hsh (by decide) h]
    exact congrArg Line.hsh (Channel.get_mapLines _ _ l)
  case difCount | difG | difMod => subst h; exact congrArg Line.dif (Channel.get_mapLines _ _ l)
  case dif =>
    rw [c.writeReg_of_mem T fs k v .ldif (by decide) h]
    exact congrArg Line.dif (Channel.get_mapLines _ _ l)
  case difSeed =>
    obtain rfl | rfl : r = .seedPostdiffusion ∨ r = .crossSeed := by simpa using h
    · exact congrArg Line.dif (Twelve.get_mapIdx _ _ l)
    · exact (Channel.updateLines_dif _ T fs l).trans (congrArg Line.dif (Twelve.get_mapIdx _ _ l))
  case loop =>
    by_cases hx : r = .crossSeed
    · subst hx
      exact Channel.updateLines_loop _ T fs l rfl (Channel.reseedLdif_mdly _ T fs l)
    · have hr : r ∈ [.lateLineSizeMs, .lateLineModAmtMs, .lateLineDecayS, .lateLineModRateHz, .seedDelay] := by
        simpa [hx] using h
      exact Channel.updateLines_loop { c with regs := c.regs.set r v } T fs l
        (c.writeReg_of_mem T fs k v .lines (by decide) hr) rfl
  case stageG =>
    subst h
    exact (congrArg (fun u : Line => (u.dif.stages.get j).g) (Channel.get_mapLines _ _ l)).trans
      (congrArg Apf.g (Twelve.get_map _ _ j))
  case stageMod =>
    subst h
    exact (congrArg (fun u : Line => (u.dif.stages.get j).modEn) (Channel.get_mapLines _ _ l)).trans
      (congrArg Apf.modEn (Twelve.get_map _ _ j))
  case mt =>
    rw [c.writeReg_of_mem T fs k v .mt (by decide) h]
    rfl
  case ed =>
    rw [c.writeReg_of_mem T fs k v .ed (by decide) h]
    rfl
  case mtSeed =>
    obtain rfl | rfl : r = .seedTap ∨ r = .crossSeed := by simpa using h
    · rfl
    · rfl
  case edSeed =>
    obtain rfl | rfl : r = .seedDiffusion ∨ r = .crossSeed := by simpa using h
    · rfl
    · rfl
  case bqx =>
    obtain ⟨u, hu, hbqx⟩ := Channel.deriveBqx_shape T fs { c with regs := c.regs.set r v }
    rw [c.writeReg_of_mem T fs k v .bqx (by decide) h, Channel.writeEffect, hu] at htype ⊢
    exact hbqx type htype
  case edStageG => subst h; exact congrArg Apf.g (Twelve.get_map _ _ j)
  case edStageMod => subst h; exact congrArg Apf.modEn (Twelve.get_map _ _ j)
end

section
/-!
The refresh of a tap (42_allpass_delay.md R301): both taps lie inside a buffer of either length of CSC-1, and the two
worked examples of the rule have known total delays.
-/

namespace Sys2Proof.Machine

/-- Whatever the tap holds, DA lies in 1..N - 2 (42_allpass_delay.md R301). -/
theorem Tap.refresh_da_bounds {n : Nat} (hn : tapLength n) (t : Tap) :
    1 ≤ (t.refresh n).da ∧ (t.refresh n).da ≤ n - 2 := by
  obtain ⟨hnan, hval, hone, hbig, -⟩ := tapLength_facts hn
  obtain ⟨hlo, hhi, -⟩ := t.refresh_taps hnan hval hone hbig
  exact ⟨hlo, hhi⟩

/-- DA is the floor of the total delay as an integer: that floor is positive. -/
theorem Tap.refresh_da_floor {n : Nat} (hn : tapLength n) (t : Tap) :
    ((t.refresh n).da : Int) = (t.totalDelay n).floor := by
  have hlo := (t.refresh_da_bounds hn).1
  rw [Tap.refresh_da] at hlo ⊢
  exact Int.toNat_of_nonneg (by omega)

/-- A refresh changes DA, DB, GA and GB only. -/
theorem Tap.refresh_frame (n : Nat) (t : Tap) :
    { t.refresh n with da := t.da, db := t.db, ga := t.ga, gb := t.gb } = t := by
  obtain ⟨da, db, ga, gb, h⟩ := t.refresh_shape n
  rw [h]

/-- The taps and weights of a known total delay. -/
theorem Tap.refresh_of_totalDelay {n : Nat} {t : Tap} {td : F32} (h : t.totalDelay n = td) :
    (t.refresh n).da = td.floor.toNat ∧ (t.refresh n).gb = F32.sub td (F32.ofNat td.floor.toNat) ∧
      (t.refresh n).ga = F32.sub F32.one (F32.sub td (F32.ofNat td.floor.toNat)) := by
  rw [t.refresh_ga, t.refresh_gb, t.refresh_da, h]
  exact ⟨rfl, rfl, rfl⟩

/-- The first example of R301: a delay of 3 less a modulation of at most 2 is the least total delay, 1.0. -/
theorem Tap.totalDelay_example_least {n : Nat} (hn : tapLength n) {t : Tap} (hsd : t.sd = 3)
    (hamt : t.amt = ⟨0x40A00000⟩) (hmod : t.mod = ⟨0xBF800000⟩) : t.totalDelay n = ⟨0x3F800000⟩ := by
  rw [Tap.totalDelay, hsd, hamt, hmod]
  obtain rfl | rfl := hn <;> decide +kernel

/-- The second example of R301: a delay of 10 and half of a modulation of 2.25 is a total delay of 11.125. -/
theorem Tap.totalDelay_example_fraction {n : Nat} (hn : tapLength n) {t : Tap} (hsd : t.sd = 10)
    (hamt : t.amt = ⟨0x40100000⟩) (hmod : t.mod = ⟨0x3F000000⟩) : t.totalDelay n = ⟨0x41320000⟩ := by
  rw [Tap.totalDelay, hsd, hamt, hmod]
  obtain rfl | rfl := hn <;> decide +kernel

end Sys2Proof.Machine
end

section
open Sys2Proof Sys2Proof.Machine

/-- Settles O36: the total delay is clamped to [1, N - 2], so its floor is too; the examples are total delays of 1.0 and
11.125. -/
theorem refreshBounds : Obligations.RefreshBounds := by
  unfold Obligations.RefreshBounds
  intro n t (hn : tapLength n)
  obtain ⟨hlo, hhi⟩ := t.refresh_da_bounds hn
  have hdb := t.refresh_db n
  refine ⟨hlo, hhi, by omega, by omega, hdb, t.refresh_frame n,
    ⟨_, _, _, t.totalDelay n, rfl, rfl, rfl, rfl, t.refresh_da_floor hn, t.refresh_gb n, t.refresh_ga n⟩,
    fun hsd hamt hmod => ?least, fun hsd hamt hmod => ?fraction⟩
  case least =>
    obtain ⟨hda, hgb, hga⟩ := Tap.refresh_of_totalDelay (Tap.totalDelay_example_least hn hsd hamt hmod)
    exact ⟨hda.trans (by decide +kernel), hga.trans (by decide +kernel), hgb.trans (by decide +kernel)⟩
  case fraction =>
    obtain ⟨hda, hgb, hga⟩ := Tap.refresh_of_totalDelay (Tap.totalDelay_example_fraction hn hsd hamt hmod)
    have hda' : (t.refresh n).da = 11 := hda.trans (by decide +kernel)
    exact ⟨hda', by omega, hga.trans (by decide +kernel), hgb.trans (by decide +kernel)⟩
end

section
/-!
A field read back after a WDER (46_diagnostic.md R501, R503, R504): the field written gives the word, and every other
field that the write does not refresh is what it was. Said for each kind of unit, then for the channel.
-/

namespace Sys2Proof.Machine

/-! ### One unit -/

theorem OnePole.field_setField (u : OnePole) {r : OnePoleRef} {f : OnePoleField}
    (hw : (FieldRef.onePole r f).writeType ≠ .readOnly) (g : OnePoleField) (v : Word) :
    (u.setField f v).field g = if g = f then v else u.field g := by
  cases f with
  | mode | cutoff => exact absurd rfl hw
  | a1 | b0 | y => cases g <;> rfl

theorem Biquad.field_setField (u : Biquad) {r : BiquadRef} {f : BiquadField}
    (hw : (FieldRef.biquad r f).writeType ≠ .readOnly) (g : BiquadField) (v : Word) :
    (u.setField f v).field g = if g = f then v else u.field g := by
  cases f with
  | type | freq | gainDb | q => exact absurd rfl hw
  | b0 | b1 | b2 | a1 | a2 | x1 | x2 | y1 | y2 => cases g <;> rfl

/-- A refresh leaves every field but DA, DB, GA and GB (42_allpass_delay.md R301). -/
theorem Tap.field_refresh (n : Nat) (t : Tap) {g : TapField} (hg : g ∉ [.da, .db, .ga, .gb]) :
    (t.refresh n).field g = t.field g := by
  cases g <;> simp [Tap.field] at hg ⊢

theorem natWord_toNat (v : Word) : natWord v.toNat = v := by simp [natWord]

theorem Tap.field_setField {n : Nat} (t : Tap) {f : TapField} (hw : f.writeType n ≠ .readOnly) {g : TapField}
    (hr : FieldRef.refreshes.tapRefreshes f g = false) (v : Word) :
    (t.setField n f v).field g = if g = f then v else t.field g := by
  cases f with
  | mod | da | db | ga | gb | widx => exact absurd rfl hw
  | phase => cases g <;> rfl
  | counter => cases g <;> simp [Tap.setField, Tap.field, natWord_toNat]
  | sd | amt | rate =>
    have hg : g ∉ [.da, .db, .ga, .gb] := by simpa [FieldRef.refreshes.tapRefreshes, and_assoc] using hr
    rw [Tap.setField, Tap.field_refresh n _ hg]
    cases g <;> simp [Tap.field, natWord_toNat]

theorem Apf.field_setField (u : Apf) {d : DiffRef} {s : Fin 12} {f e : ApfField}
    (hw : (FieldRef.apf d s f).writeType ≠ .readOnly) (hr : (FieldRef.apf d s f).refreshes (.apf d s e) = false)
    (v : Word) : (u.setField f v).field e = if e = f then v else u.field e := by
  cases f with
  | tap f =>
    cases e with
    | tap e =>
      have hr' : FieldRef.refreshes.tapRefreshes f e = false := by simpa [FieldRef.refreshes] using hr
      simpa [Apf.field, Apf.setField] using u.tap.field_setField hw hr' v
    | g | modEn => rfl
  | g => cases e <;> rfl
  | modEn => exact absurd rfl hw

theorem Line.field_setField (l : Line) {k : Fin 12} {f : LineField} (hw : (FieldRef.line k f).writeType ≠ .readOnly)
    (g : LineField) (v : Word) : (l.setField f v).field g = if g = f then v else l.field g := by
  cases f with
  | gain => cases g <;> rfl
  | fbLevel | fbRdPtr => exact absurd rfl hw

/-- The fields of a line are its gain and its FIFO's. -/
theorem Line.field_congr {l m : Line} (hg : m.gain = l.gain) (hf : m.fb = l.fb) (f : LineField) :
    m.field f = l.field f := by
  cases f <;> simp only [Line.field, hg, hf]

/-- A field write changes of a line the gain at most. -/
theorem Line.setField_shape (l : Line) (f : LineField) (v : Word) :
    l.setField f v = { l with gain := (l.setField f v).gain } := by
  cases f <;> rfl

/-! ### Replacing one unit of a channel -/

section
variable (c : Channel)

theorem Channel.apf_setApf (d e : DiffRef) (s k : Fin 12) (u : Apf) :
    (c.setApf d s u).apf e k = if e = d ∧ k = s then u else c.apf e k := by
  by_cases he : e = d
  · subst he
    simp [Channel.apf, Channel.setApf, Twelve.get_set]
  · simp [Channel.apf, Channel.setApf, he]

/-- A diffuser's own fields do not depend on its stages. -/
theorem Channel.diff_field_setApf (d e : DiffRef) (s : Fin 12) (u : Apf) (f : DiffField) :
    ((c.setApf d s u).diff e).field f = (c.diff e).field f := by
  rw [Channel.setApf, Channel.diff_setDiff]
  split
  · subst e
    cases f <;> rfl
  · rfl

theorem Channel.readField_setOnePole_ne {r : OnePoleRef} {g : FieldRef} (u : OnePole) (h : ∀ f, g ≠ .onePole r f) :
    (c.setOnePole r u).readField g = c.readField g := by
  cases g with
  | onePole q f =>
    have hq : q ≠ r := fun hq => h f (by rw [hq])
    simp [Channel.readField, hq]
  | line l f => exact Line.field_congr (c.setOnePole_gain r u l) (c.setOnePole_fb r u l) f
  | _ => simp [Channel.readField, Channel.apf]

theorem Channel.readField_setBiquad_ne {r : BiquadRef} {g : FieldRef} (u : Biquad) (h : ∀ f, g ≠ .biquad r f) :
    (c.setBiquad r u).readField g = c.readField g := by
  cases g with
  | biquad q f =>
    have hq : q ≠ r := fun hq => h f (by rw [hq])
    simp [Channel.readField, hq]
  | line l f => exact Line.field_congr (c.setBiquad_gain r u l) (c.setBiquad_fb r u l) f
  | _ => simp [Channel.readField, Channel.apf]

theorem Channel.readField_setMdly_ne {r : MdlyRef} {g : FieldRef} (u : Tap) (h : ∀ f, g ≠ .mdly r f) :
    (c.setMdly r u).readField g = c.readField g := by
  cases g with
  | mdly q f =>
    have hq : q ≠ r := fun hq => h f (by rw [hq])
    simp [Channel.readField, hq]
  | line l f => exact Line.field_congr (c.setMdly_gain r u l) (c.setMdly_fb r u l) f
  | _ => simp [Channel.readField, Channel.apf]

theorem Channel.readField_setApf_ne {d : DiffRef} {s : Fin 12} {g : FieldRef} (u : Apf) (h : ∀ f, g ≠ .apf d s f) :
    (c.setApf d s u).readField g = c.readField g := by
  cases g with
  | apf e k f =>
    have hk : ¬ (e = d ∧ k = s) := fun hk => h f (by rw [hk.1, hk.2])
    rw [Channel.readField, Channel.apf_setApf, if_neg hk, Channel.readField]
  | diff e f => exact c.diff_field_setApf d e s u f
  | line l f => exact Line.field_congr (c.setDiff_gain d _ l) (c.setDiff_fb d _ l) f
  | _ => simp [Channel.readField, Channel.setApf]

/-- What does not depend on a line's gain is the same of every line after a new gain. -/
theorem Channel.line_setLine_congr {α : Type} {φ : Line → α} (hφ : ∀ m x, φ { m with gain := x } = φ m) {l : Fin 12}
    {u : Line} (hu : u = { c.lines.get l with gain := u.gain }) (k : Fin 12) :
    φ ((c.setLine l u).lines.get k) = φ (c.lines.get k) := by
  rw [Channel.setLine, Twelve.get_set]
  split
  · subst k
    exact (congrArg φ hu).trans (hφ _ _)
  · rfl

/-- A new gain in a line leaves every field but the line's own. -/
theorem Channel.readField_setLine_ne {l : Fin 12} {g : FieldRef} {u : Line}
    (hu : u = { c.lines.get l with gain := u.gain }) (h : ∀ f, g ≠ .line l f) :
    (c.setLine l u).readField g = c.readField g := by
  cases g with
  | onePole q f =>
    cases q with
    | damp k => exact c.line_setLine_congr (φ := fun m => m.damp.field f) (fun _ _ => rfl) hu k
    | hpc | lpc => rfl
  | biquad q f =>
    cases q with
    | lsh k => exact c.line_setLine_congr (φ := fun m => m.lsh.field f) (fun _ _ => rfl) hu k
    | hsh k => exact c.line_setLine_congr (φ := fun m => m.hsh.field f) (fun _ _ => rfl) hu k
    | bqx => rfl
  | mdly q f =>
    cases q with
    | line k => exact c.line_setLine_congr (φ := fun m => m.mdly.field f) (fun _ _ => rfl) hu k
    | pre => rfl
  | diff q f =>
    cases q with
    | line k => exact c.line_setLine_congr (φ := fun m => m.dif.field f) (fun _ _ => rfl) hu k
    | ed => rfl
  | apf q s f =>
    cases q with
    | line k => exact c.line_setLine_congr (φ := fun m => (m.dif.stages.get s).field f) (fun _ _ => rfl) hu k
    | ed => rfl
  | line k f =>
    have hk : k ≠ l := fun hk => h f (by rw [hk])
    rw [Channel.readField, Channel.setLine, Twelve.get_set_ne hk, Channel.readField]
  | mt f => rfl
  | chan f => cases f <;> rfl

end

/-! ### Writing one field of a channel -/

/-- A field that may be written reads the word written; every other field that the write does not refresh is kept
(46_diagnostic.md R504). -/
theorem Channel.readField_writeField (c : Channel) {f g : FieldRef} (hw : f.writeType ≠ .readOnly)
    (hr : f.refreshes g = false) (v : Word) : (c.writeField f v).readField g = if g = f then v else c.readField g := by
  cases f with
  | onePole r f =>
    by_cases hg : ∃ e, g = .onePole r e
    · obtain ⟨e, rfl⟩ := hg
      simp [Channel.writeField, Channel.readField, OnePole.field_setField _ hw]
    · rw [if_neg fun hf => hg ⟨f, hf⟩]
      exact c.readField_setOnePole_ne _ (not_exists.1 hg)
  | biquad r f =>
    by_cases hg : ∃ e, g = .biquad r e
    · obtain ⟨e, rfl⟩ := hg
      simp [Channel.writeField, Channel.readField, Biquad.field_setField _ hw]
    · rw [if_neg fun hf => hg ⟨f, hf⟩]
      exact c.readField_setBiquad_ne _ (not_exists.1 hg)
  | apf d s f =>
    by_cases hg : ∃ e, g = .apf d s e
    · obtain ⟨e, rfl⟩ := hg
      simp [Channel.writeField, Channel.readField, Channel.apf_setApf, Apf.field_setField _ hw hr]
    · rw [if_neg fun hf => hg ⟨f, hf⟩]
      exact c.readField_setApf_ne _ (not_exists.1 hg)
  | mdly r f =>
    by_cases hg : ∃ e, g = .mdly r e
    · obtain ⟨e, rfl⟩ := hg
      have hr' : FieldRef.refreshes.tapRefreshes f e = false := by simpa [FieldRef.refreshes] using hr
      simp [Channel.writeField, Channel.readField, Tap.field_setField _ hw hr']
    · rw [if_neg fun hf => hg ⟨f, hf⟩]
      exact c.readField_setMdly_ne _ (not_exists.1 hg)
  | line l f =>
    by_cases hg : ∃ e, g = .line l e
    · obtain ⟨e, rfl⟩ := hg
      simp [Channel.writeField, Channel.readField, Channel.setLine, Line.field_setField _ hw]
    · rw [if_neg fun hf => hg ⟨f, hf⟩]
      exact c.readField_setLine_ne (Line.setField_shape _ f v) (not_exists.1 hg)
  | diff | mt | chan => exact absurd rfl hw

/-- A field that accepts a word may be written. -/
theorem WriteType.ne_readOnly_of_accept {y : WriteType} {w v : Word} (h : y.accept w = .ok v) : y ≠ .readOnly := by
  rintro rfl
  cases h

end Sys2Proof.Machine
end

section
open Sys2Proof Sys2Proof.Machine

/-- Settles O33: a field other than the one written reads as before, for each kind of unit. -/
theorem fieldWriteFrame : Obligations.FieldWriteFrame := by
  unfold Obligations.FieldWriteFrame
  intro c f g w v hv hne hr
  refine ⟨?_, c.writeField_regs f v⟩
  rw [c.readField_writeField (WriteType.ne_readOnly_of_accept hv) hr, if_neg hne]
end

section
/-!
WDER (46_diagnostic.md R501, R504): what its check resolves and refuses, the table of clamps, and the register writes
that derive a diffuser again.
-/

namespace Sys2Proof.Machine

/-! ### The check -/

/-- A mask that selects no channel names no unit. -/
theorem wderCheck_noChannel {sel : BitVec 12} (n : BitVec 12) (value : Word) (h : sel ≠ 0xF00) :
    wderCheck 0 sel n value = .error .badCh := by
  have hs : ¬ (sel == rngSel) = true := by simpa [rngSel] using h
  rw [wderCheck, if_neg hs]
  rfl

/-- The RNG belongs to no channel. -/
theorem wderCheck_rng_badCh {ch : BitVec 2} (n : BitVec 12) (value : Word) (h : ch ≠ 0) :
    wderCheck ch 0xF00 n value = .error .badCh := by
  rw [wderCheck, if_pos (by decide), if_pos (by simpa using h)]

/-- The RNG has the field 0 only. -/
theorem wderCheck_rng_badField {n : BitVec 12} (value : Word) (h : n ≠ 0) :
    wderCheck 0 0xF00 n value = .error .badField := by
  rw [wderCheck, if_pos (by decide), if_neg (by decide), if_pos (by simpa using h)]

theorem wderCheck_badSel {ch : BitVec 2} {sel : BitVec 12} (n : BitVec 12) (value : Word) (hs : sel ≠ 0xF00)
    (hch : ch ≠ 0) (hu : UnitRef.ofSel sel = none) : wderCheck ch sel n value = .error .badSel := by
  rw [wderCheck, if_neg (by simpa [rngSel] using hs), if_neg (by simpa using hch), hu]

/-- The number of the RNG names no unit of a channel (46_diagnostic.md R500). -/
theorem ne_rngSel_of_ofSel {sel : BitVec 12} {u : UnitRef} (hu : UnitRef.ofSel sel = some u) : sel ≠ rngSel := by
  have hrng : UnitRef.ofSel rngSel = none := by decide
  rintro rfl
  exact nomatch hrng.symm.trans hu

section
variable {ch : BitVec 2} {sel n : BitVec 12} {u : UnitRef} (value : Word) (hch : ch ≠ 0)
  (hu : UnitRef.ofSel sel = some u)
include hch hu

theorem wderCheck_undefined (hf : FieldRef.ofN u n = none) : wderCheck ch sel n value = .error .badField := by
  rw [wderCheck, if_neg (by simpa using ne_rngSel_of_ofSel hu), if_neg (by simpa using hch), hu]
  simp only [hf]

/-- On a field of a unit of the selected channels, the field decides. -/
theorem wderCheck_field {f : FieldRef} (hf : FieldRef.ofN u n = some f) :
    wderCheck ch sel n value = (f.writeType.accept value).map (.unit f) := by
  rw [wderCheck, if_neg (by simpa using ne_rngSel_of_ofSel hu), if_neg (by simpa using hch), hu]
  simp only [hf]
  cases f.writeType.accept value <;> rfl

end

/-- A float field refuses a NaN (46_diagnostic.md R504). -/
theorem WriteType.accept_nan {y : WriteType} {w : Word} (hy : y = .anyFloat ∨ ∃ lo hi, y = .float lo hi)
    (hw : F32.isNaN ⟨w⟩ = true) : y.accept w = .error .badValue := by
  obtain rfl | ⟨lo, hi, rfl⟩ := hy
  · exact if_pos hw
  · exact if_pos hw

/-! ### The table -/

theorem TapField.writeType_eq (n : Nat) (f : TapField) : f.writeType n = tapFieldClamp n f := by
  cases f <;> rfl

/-- Each field has the write type of the table (46_diagnostic.md R501). -/
theorem FieldRef.writeType_eq (f : FieldRef) : f.writeType = fieldClamp f := by
  cases f with
  | onePole r f => cases f <;> rfl
  | biquad r f => cases f <;> rfl
  | apf d s f =>
    cases f with
    | tap f => exact f.writeType_eq 19202
    | g | modEn => rfl
  | mdly r f => exact f.writeType_eq 192000
  | line l f => cases f <;> rfl
  | diff | mt | chan => rfl

/-- No write of a field refreshes that field itself. -/
theorem FieldRef.refreshes_self (f : FieldRef) : f.refreshes f = false := by
  have htap : ∀ f : TapField, FieldRef.refreshes.tapRefreshes f f = false := by
    intro f
    cases f <;> rfl
  cases f with
  | apf d s f =>
    cases f with
    | tap f => simp [FieldRef.refreshes, htap]
    | g | modEn => rfl
  | mdly r f => simp [FieldRef.refreshes, htap]
  | _ => rfl

/-! ### The command -/

theorem exec_wder_unit {ch : BitVec 2} {sel n : BitVec 12} {value v : Word} {u : UnitRef} {f : FieldRef} {s : State}
    {rest : List Word} (hch : ch ≠ 0) (hu : UnitRef.ofSel sel = some u) (hf : FieldRef.ofN u n = some f)
    (hv : f.writeType.accept value = .ok v) (hs : s.cmdFifo = encode (.wder ch sel n value) ++ rest) :
    exec (.wder ch sel n value) s = .next ((s.mapped ch (fun _ c => c.writeField f v)).completed 2 rest) := by
  have hc : wderCheck ch sel n value = .ok (.unit f v) := by
    rw [wderCheck_field value hch hu hf, hv]
    rfl
  rw [exec, execWder, hc, checked_ok, State.writeRef, State.onChannels_eq]
  exact congrArg Host.Outcome.next (State.consume_eq (s := s.mapped ch _) hs rfl)

theorem exec_wder_rng {value : Word} {s : State} {rest : List Word}
    (hs : s.cmdFifo = encode (.wder 0 0xF00 0 value) ++ rest) :
    exec (.wder 0 0xF00 0 value) s = .next (State.completed { s with x := value } 2 rest) :=
  congrArg Host.Outcome.next (State.consume_eq (s := { s with x := value }) hs rfl)

/-! ### Deriving a diffuser again -/

section
variable (T : Transc) (fs : F32) (k : Chan) {r : CReg} (v : Word) (c : Channel)

/-- A write that derives the early diffuser derives it with EDIF_FEEDBACK (42_allpass_delay.md R315). -/
theorem Channel.writeReg_derives_ed
    (h : r ∈ [.edifDelayMs, .edifModAmtMs, .edifModRateHz, .seedDiffusion, .crossSeed]) :
    ∃ (delayMs amtMs rateHz : F32) (d : Diff),
      (c.writeReg T fs k r v).ed = d.derive T fs delayMs amtMs rateHz c.regs.edifFeedback := by
  simp only [List.mem_cons, List.not_mem_nil, or_false] at h
  obtain rfl | rfl | rfl | rfl | rfl := h
  iterate 5 exact ⟨_, _, _, _, rfl⟩

/-- A write that derives the line diffusers derives them with LATE_DIF_FEEDBACK (42_allpass_delay.md R316). -/
theorem Channel.writeReg_derives_lineDif
    (h : r ∈ [.lateDifDelayMs, .lateDifModAmtMs, .lateDifModRateHz, .seedPostdiffusion, .crossSeed]) (l : Fin 12) :
    ∃ (delayMs amtMs rateHz : F32) (d : Diff),
      ((c.writeReg T fs k r v).lines.get l).dif = d.derive T fs delayMs amtMs rateHz c.regs.lateDifFeedback := by
  simp only [List.mem_cons, List.not_mem_nil, or_false] at h
  obtain rfl | rfl | rfl | rfl | rfl := h
  iterate 3 exact ⟨_, _, _, _, congrArg Line.dif (Channel.get_mapLines _ _ l)⟩
  · exact ⟨_, _, _, _, congrArg Line.dif (Twelve.get_mapIdx _ _ l)⟩
  · exact ⟨_, _, _, _, (Channel.updateLines_dif _ T fs l).trans (congrArg Line.dif (Twelve.get_mapIdx _ _ l))⟩

end

end Sys2Proof.Machine
end

section
open Sys2Proof Sys2Proof.Machine

/-- Settles O32: the check by its clauses, the field read back, and the derivations that rewrite G. -/
theorem wderWritesField : Obligations.WderWritesField := by
  unfold Obligations.WderWritesField
  refine ⟨fun ch sel n value u f v s rest hch hu hf hv hs => exec_wder_unit hch hu hf hv hs,
    fun value s rest hs => exec_wder_rng hs, fun c f w v hv => ?readBack,
    fun c r v => ⟨rfl, rfl, rfl, rfl⟩, fun c d k v => ⟨rfl, rfl, rfl, rfl⟩,
    fun ch n value hch => refuses_of_check rfl (wderCheck_rng_badCh n value hch),
    fun sel n value hs => refuses_of_check rfl (wderCheck_noChannel n value hs),
    fun ch sel n value hs hch hu => refuses_of_check rfl (wderCheck_badSel n value hs hch hu),
    fun ch sel n value u hch hu hf => refuses_of_check rfl ?badField,
    fun n value hn => refuses_of_check rfl (wderCheck_rng_badField value hn),
    fun ch sel n value u f hch hu hf hy hnan => refuses_of_check rfl ?badValue,
    fun T fs k r v c j => ⟨fun hr => ?edG, fun hr l => ?lineG⟩, FieldRef.writeType_eq, fun f w => ?accept⟩
  case readBack =>
    rw [c.readField_writeField (WriteType.ne_readOnly_of_accept hv) f.refreshes_self, if_pos rfl]
  case badField =>
    obtain hf | ⟨f, hf, hy⟩ := hf
    · exact wderCheck_undefined value hch hu hf
    · rw [wderCheck_field value hch hu hf, hy]
      rfl
  case badValue =>
    rw [wderCheck_field value hch hu hf, WriteType.accept_nan hy hnan]
    rfl
  case edG =>
    obtain ⟨delayMs, amtMs, rateHz, d, hd⟩ := c.writeReg_derives_ed T fs k v hr
    rw [Channel.apf, Channel.diff, hd]
    exact Diff.derive_stage_g ..
  case lineG =>
    obtain ⟨delayMs, amtMs, rateHz, d, hd⟩ := c.writeReg_derives_lineDif T fs k v hr l
    rw [Channel.apf, Channel.diff, hd]
    exact Diff.derive_stage_g ..
  case accept =>
    cases f.writeType with
    | readOnly | anyFloat => rfl
    | float lo hi =>
      simp only [WriteType.accept, F32.clamp_bits]
      split_ifs <;> rfl
    | unsigned lo hi => simp only [WriteType.accept, clampi_natCast]
end

section
/-!
The feedback FIFO as a queue (44_fdn_channel.md R390): what its contents are after a push and a pop, and that a pop of
samples already in the FIFO commutes with a push behind them.
-/

namespace Sys2Proof.Machine

/-! ### Contents -/

theorem Fifo.contents_of_level_zero {f : Fifo} (h : f.level = 0) : f.contents = [] := by
  rw [Fifo.contents, h]
  rfl

theorem Fifo.popOne_of_level_zero {f : Fifo} (h : f.level = 0) : f.popOne = (f, F32.zero) := if_neg (by omega)

theorem Fifo.popOne_of_pos {f : Fifo} (h : 0 < f.level) :
    f.popOne = ({ f with rd := (f.rd + 1) % 2048, level := f.level - 1 }, Buf.get f.cells f.rd) := if_pos h

/-- A FIFO that is not empty: the sample a pop gives, before the contents the pop leaves. -/
theorem Fifo.contents_eq_cons {f : Fifo} (hr : f.rd < 2048) (h : 0 < f.level) :
    f.contents = f.popOne.2 :: f.popOne.1.contents := by
  obtain ⟨n, hn⟩ := Nat.exists_eq_succ_of_ne_zero h.ne'
  rw [Fifo.popOne_of_pos h]
  simp only [Fifo.contents, hn, Nat.succ_eq_add_one, Nat.add_sub_cancel, List.range_succ_eq_map, List.map_cons,
    List.map_map, Nat.add_zero, Nat.mod_eq_of_lt hr]
  refine congrArg _ (List.map_congr_left fun k _ => congrArg (Buf.get f.cells) (by omega))

theorem Fifo.popOne_sound {f : Fifo} (h : f.sound) : f.popOne.1.sound := Fifo.pop_sound 1 h

theorem Fifo.popOne_level (f : Fifo) : f.popOne.1.level = f.level - 1 := Fifo.pop_level 1 f

theorem Fifo.pop_contents (n : Nat) {f : Fifo} (h : f.sound) : (Fifo.pop n f).1.contents = f.contents.drop n := by
  induction n generalizing f with
  | zero => rfl
  | succ n ih =>
    refine (ih (Fifo.popOne_sound h)).trans ?_
    obtain h0 | h0 := Nat.eq_zero_or_pos f.level
    · rw [Fifo.popOne_of_level_zero h0, Fifo.contents_of_level_zero h0]
      simp
    · rw [Fifo.contents_eq_cons h.1 h0, List.drop_succ_cons]

theorem Fifo.pop_outputs (n : Nat) {f : Fifo} (h : f.sound) :
    (Fifo.pop n f).2 = (f.contents ++ List.replicate n F32.zero).take n := by
  induction n generalizing f with
  | zero => rfl
  | succ n ih =>
    refine (congrArg (f.popOne.2 :: ·) (ih (Fifo.popOne_sound h))).trans ?_
    obtain h0 | h0 := Nat.eq_zero_or_pos f.level
    · rw [Fifo.popOne_of_level_zero h0, Fifo.contents_of_level_zero h0]
      simp [List.replicate_succ]
    · rw [Fifo.contents_eq_cons h.1 h0, List.replicate_succ', ← List.append_assoc, List.cons_append, List.cons_append,
        List.take_succ_cons, List.take_append_of_le_length (l₁ := _ ++ _) (by simp)]

theorem Fifo.pushOne_of_room {f : Fifo} (h : f.level < 2048) (x : F32) :
    f.pushOne x = { f with cells := Buf.set f.cells ((f.rd + f.level) % 2048) x, level := f.level + 1 } :=
  if_pos h

theorem Fifo.pushOne_sound {f : Fifo} (h : f.sound) (x : F32) : (f.pushOne x).sound := Fifo.push_sound [x] h

/-- A push into a FIFO with room: the cell it writes lies outside the contents. -/
theorem Fifo.pushOne_contents {f : Fifo} (hw : f.cells.wf = true) (h : f.level < 2048) (x : F32) :
    (f.pushOne x).contents = f.contents ++ [x] := by
  rw [Fifo.pushOne_of_room h]
  simp only [Fifo.contents, Buf.get_set hw, List.range_succ, List.map_append, List.map_cons, List.map_nil, if_true]
  refine congrArg (· ++ [x]) (List.map_congr_left fun k hk => if_neg ?_)
  have := List.mem_range.1 hk
  omega

theorem Fifo.push_contents (v : List F32) {f : Fifo} (h : f.sound) (hl : f.level + v.length ≤ 2048) :
    (f.push v).contents = f.contents ++ v := by
  induction v generalizing f with
  | nil => simp [Fifo.push]
  | cons x v ih =>
    rw [List.length_cons] at hl
    have hx : f.level < 2048 := by omega
    have hlev : (f.pushOne x).level = f.level + 1 := by rw [Fifo.pushOne_of_room hx]
    refine (ih (Fifo.pushOne_sound h x) (by omega)).trans ?_
    rw [Fifo.pushOne_contents h.2 hx, List.append_assoc, List.singleton_append]

/-! ### Pops and pushes in parts -/

theorem Fifo.pop_add (m n : Nat) (f : Fifo) :
    Fifo.pop (m + n) f =
      ((Fifo.pop n (Fifo.pop m f).1).1, (Fifo.pop m f).2 ++ (Fifo.pop n (Fifo.pop m f).1).2) := by
  induction m generalizing f with
  | zero => simp [Fifo.pop]
  | succ m ih =>
    rw [Nat.succ_add]
    simp only [Fifo.pop, ih, List.cons_append]

theorem Fifo.push_append (f : Fifo) (v w : List F32) : f.push (v ++ w) = (f.push v).push w := List.foldl_append

/-- In a FIFO neither empty nor full, the cell read by a pop is not the cell written by a push. -/
theorem Fifo.popOne_pushOne {f : Fifo} (h : f.sound) (h0 : 0 < f.level) (hl : f.level < 2048) (x : F32) :
    (f.pushOne x).popOne = (f.popOne.1.pushOne x, f.popOne.2) := by
  obtain ⟨hr, hw⟩ := h
  have hroom : f.popOne.1.level < 2048 := by rw [Fifo.popOne_level]; omega
  rw [Fifo.pushOne_of_room hroom, Fifo.pushOne_of_room hl, Fifo.popOne_of_pos h0, Fifo.popOne_of_pos (Nat.succ_pos _)]
  have hread : f.rd ≠ (f.rd + f.level) % 2048 := by omega
  have hcell : ((f.rd + 1) % 2048 + (f.level - 1)) % 2048 = (f.rd + f.level) % 2048 := by omega
  have hlevel : f.level - 1 + 1 = f.level := by omega
  simp only [Buf.get_set hw, if_neg hread, Nat.add_sub_cancel, hlevel, hcell]

theorem Fifo.popOne_push {f : Fifo} (h : f.sound) (h0 : 0 < f.level) (v : List F32) (hl : f.level + v.length ≤ 2048) :
    (f.push v).popOne = (f.popOne.1.push v, f.popOne.2) := by
  induction v generalizing f with
  | nil => rfl
  | cons x v ih =>
    rw [List.length_cons] at hl
    have hx : f.level < 2048 := by omega
    have hlev : (f.pushOne x).level = f.level + 1 := by rw [Fifo.pushOne_of_room hx]
    refine (ih (Fifo.pushOne_sound h x) (by omega) (by omega)).trans ?_
    rw [Fifo.popOne_pushOne h h0 hx]
    rfl

/-- Popping what the FIFO held before a push is popping it first. -/
theorem Fifo.pop_push (n : Nat) {f : Fifo} (h : f.sound) (hn : n ≤ f.level) (v : List F32)
    (hl : f.level + v.length ≤ 2048) : Fifo.pop n (f.push v) = ((Fifo.pop n f).1.push v, (Fifo.pop n f).2) := by
  induction n generalizing f with
  | zero => rfl
  | succ n ih =>
    have hlev := f.popOne_level
    simp only [Fifo.pop, Fifo.popOne_push h (by omega) v hl, ih (Fifo.popOne_sound h) (by omega) (by omega)]

end Sys2Proof.Machine
end

section
open Sys2Proof Sys2Proof.Machine

/-- Settles O37: the contents after a push and a pop by induction on the samples, the line by its FIFO's level. -/
theorem fifoQueue : Obligations.FifoQueue := by
  unfold Obligations.FifoQueue
  refine ⟨fun f v n hr hw hl => ⟨?push, ?left, ?popped⟩, fun T i r l e hl he => ⟨?level, ?outputs⟩⟩
  case push => exact Fifo.push_contents v ⟨hr, hw⟩ hl
  case left => exact Fifo.pop_contents n ⟨hr, hw⟩
  case popped => exact Fifo.pop_outputs n ⟨hr, hw⟩
  case level => exact Line.block_level T i r l e hl he
  case outputs => exact Line.block_length T i r l e
end

section
/-!
The stages of a channel block (44_fdn_channel.md R391, R395): the signal after each unit, and each unit after the block
as the run of it on the signal before.
-/

namespace Sys2Proof.Machine

section
variable (T : Transc) (i : Bool) (c : Channel) (u : List F32)

/-- The signal behind HPC. -/
def Channel.afterHpc : List F32 := (runIf c.regs.lowcutEn OnePole.step c.hpc u).2

/-- The conditioned signal, behind LPC. -/
def Channel.afterLpc : List F32 := (runIf c.regs.highcutEn OnePole.step c.lpc (c.afterHpc u)).2

/-- The squelched and pre-delayed signal, behind PRE. -/
def Channel.afterPre : List F32 := (runBlock (Tap.step T i) c.pre ((c.afterLpc u).map squelch)).2

/-- The signal behind MT. -/
def Channel.afterMt : List F32 := (runIf c.regs.tapEn Mt.step c.mt (c.afterPre T i u)).2

/-- The early signal, behind ED. -/
def Channel.early : List F32 := (runIf c.regs.edifEn (Diff.step T i) c.ed (c.afterMt T i u)).2

/-- The lines that run. -/
def Channel.activeLines : List (Fin 12) := firstTwelve c.regs.lateLineCount.toNat

/-- The lines after the early signal, and the sum of their outputs. -/
def Channel.late : Twelve Line × List F32 :=
  sumLines T i c.regs (c.early T i u) c.activeLines c.lines ((c.early T i u).map fun _ => F32.zero)

/-- A channel block by its stages. -/
theorem Channel.block_eq : c.block T i u =
    ({ c with
        hpc := (runIf c.regs.lowcutEn OnePole.step c.hpc u).1
        lpc := (runIf c.regs.highcutEn OnePole.step c.lpc (c.afterHpc u)).1
        pre := (runBlock (Tap.step T i) c.pre ((c.afterLpc u).map squelch)).1
        mt := (runIf c.regs.tapEn Mt.step c.mt (c.afterPre T i u)).1
        ed := (runIf c.regs.edifEn (Diff.step T i) c.ed (c.afterMt T i u)).1
        lines := (c.late T i u).1 },
      mixBlock c.regs (lineNorm c.regs.lateLineCount.toNat) u (c.early T i u) (c.late T i u).2) := rfl

@[simp] theorem Channel.block_hpc :
    (c.block T i u).1.hpc = (runIf c.regs.lowcutEn OnePole.step c.hpc u).1 := rfl

@[simp] theorem Channel.block_lpc :
    (c.block T i u).1.lpc = (runIf c.regs.highcutEn OnePole.step c.lpc (c.afterHpc u)).1 := rfl

@[simp] theorem Channel.block_pre :
    (c.block T i u).1.pre = (runBlock (Tap.step T i) c.pre ((c.afterLpc u).map squelch)).1 := rfl

@[simp] theorem Channel.block_mt :
    (c.block T i u).1.mt = (runIf c.regs.tapEn Mt.step c.mt (c.afterPre T i u)).1 := rfl

@[simp] theorem Channel.block_ed :
    (c.block T i u).1.ed = (runIf c.regs.edifEn (Diff.step T i) c.ed (c.afterMt T i u)).1 := rfl

@[simp] theorem Channel.block_lines : (c.block T i u).1.lines = (c.late T i u).1 := rfl

theorem Channel.block_outputs : (c.block T i u).2 =
    mixBlock c.regs (lineNorm c.regs.lateLineCount.toNat) u (c.early T i u) (c.late T i u).2 := rfl

@[simp] theorem Channel.early_length : (c.early T i u).length = u.length := by
  simp [Channel.early, Channel.afterMt, Channel.afterPre, Channel.afterLpc, Channel.afterHpc]

@[simp] theorem Channel.late_length : (c.late T i u).2.length = u.length := by
  simp [Channel.late, sumLines_length]

theorem Channel.mem_activeLines (l : Fin 12) : l ∈ c.activeLines ↔ l.val < c.regs.lateLineCount.toNat :=
  mem_firstTwelve _ _

theorem Channel.activeLines_nodup : c.activeLines.Nodup := firstTwelve_nodup _

/-- An active line runs its block on the early signal. -/
theorem Channel.late_get_active {l : Fin 12} (h : l.val < c.regs.lateLineCount.toNat) :
    (c.late T i u).1.get l = ((c.lines.get l).block T i c.regs (c.early T i u)).1 :=
  sumLines_get_of_mem T i c.regs _ c.activeLines_nodup _ _ ((c.mem_activeLines l).2 h)

/-- A line that is not active is frozen. -/
theorem Channel.late_get_frozen {l : Fin 12} (h : c.regs.lateLineCount.toNat ≤ l.val) :
    (c.late T i u).1.get l = c.lines.get l :=
  sumLines_get T i c.regs _ _ _ _ fun hl => by
    have := (c.mem_activeLines l).1 hl
    omega

/-- Sample j of the late sum: the active lines' outputs in ascending order, added onto +0. -/
def Channel.lateSample (j : Nat) : F32 :=
  ((List.finRange 12).filter (fun l => decide (l.val < c.regs.lateLineCount.toNat))).foldl
    (fun s l => F32.add s (((c.lines.get l).block T i c.regs (c.early T i u)).2.getD j ⟨0x00000000⟩)) ⟨0x00000000⟩

theorem Channel.late_getElem? {j : Nat} {b : F32} (h : (c.early T i u)[j]? = some b) :
    (c.late T i u).2[j]? = some (c.lateSample T i u j) := by
  rw [Channel.lateSample, ← firstTwelve_eq_filter]
  exact sumLines_getElem? T i c.regs _ c.activeLines_nodup _ (by simp) (by rw [List.getElem?_map, h]; rfl)

/-- Each output sample of a channel block. -/
theorem Channel.block_getElem? {j : Nat} {a b : F32} (ha : u[j]? = some a) (hb : (c.early T i u)[j]? = some b) :
    (c.block T i u).2[j]? =
      some (mixOut c.regs (lineNorm c.regs.lateLineCount.toNat) a b (c.lateSample T i u j)) :=
  mixBlock_getElem? _ _ ha hb (c.late_getElem? T i u hb)

end

end Sys2Proof.Machine
end

section
open Sys2Proof Sys2Proof.Machine

/-- Settles O38: a disabled unit and an inactive line do not run, and the signals of the two blocks are those behind each
stage. -/
theorem frozenUnits : Obligations.FrozenUnits := by
  unfold Obligations.FrozenUnits
  refine ⟨fun T i c u => ⟨rfl, rfl, rfl, rfl, rfl, rfl, ?hpc, ?lpc, ?mt, ?ed, ?lines⟩, ?channel, ?line⟩
  case hpc => intro h; rw [Channel.block_hpc, h, runIf_false]
  case lpc => intro h; rw [Channel.block_lpc, h, runIf_false]
  case mt => intro h; rw [Channel.block_mt, h, runIf_false]
  case ed => intro h; rw [Channel.block_ed, h, runIf_false]
  case lines => exact fun l hl => c.late_get_frozen T i u hl
  case channel =>
    rintro T i c d u out ⟨⟩
    exact ⟨c.afterHpc u, c.afterLpc u, c.afterPre T i u, c.afterMt T i u, c.early T i u, _, rfl, rfl, rfl, rfl, rfl,
      fun l hl => c.late_get_active T i u hl, rfl, c.block_length T i u, c.early_length T i u,
      fun j a b ha hb => ⟨c.lateSample T i u j, rfl, c.block_getElem? T i u ha hb⟩⟩
  case line =>
    rintro T i r l m e y ⟨⟩
    exact ⟨_, _, _, _, _, rfl, rfl, rfl, rfl, rfl, rfl, rfl, rfl⟩
end

section
/-!
A block run in two parts (44_fdn_channel.md R398, R399): a unit carries its state from one part to the next, and a line
whose FIFO holds the whole block pops no sample that the first part pushed.
-/

namespace Sys2Proof.Machine

/-! ### Units -/

theorem runBlock_append {σ : Type} (step : σ → F32 → σ × F32) (s : σ) (x y : List F32) :
    runBlock step s (x ++ y) = ((runBlock step (runBlock step s x).1 y).1,
      (runBlock step s x).2 ++ (runBlock step (runBlock step s x).1 y).2) := by
  induction x generalizing s with
  | nil => rfl
  | cons a x ih => simp only [List.cons_append, runBlock, ih]

theorem runIf_append {σ : Type} (en : Bool) (step : σ → F32 → σ × F32) (s : σ) (x y : List F32) :
    runIf en step s (x ++ y) = ((runIf en step (runIf en step s x).1 y).1,
      (runIf en step s x).2 ++ (runIf en step (runIf en step s x).1 y).2) := by
  cases en
  case false => rfl
  case true => exact runBlock_append step s x y

theorem feedbackMix_append (g : F32) {e fb : List F32} (e' fb' : List F32) (h : e.length = fb.length) :
    feedbackMix g (e ++ e') (fb ++ fb') = feedbackMix g e fb ++ feedbackMix g e' fb' := List.zipWith_append h

theorem mixBlock_append (r : ChanRegs) (norm : F32) {u e s : List F32} (u' e' s' : List F32) (he : e.length = u.length)
    (hs : s.length = u.length) :
    mixBlock r norm (u ++ u') (e ++ e') (s ++ s') = mixBlock r norm u e s ++ mixBlock r norm u' e' s' := by
  induction u generalizing e s with
  | nil => rw [List.eq_nil_of_length_eq_zero he, List.eq_nil_of_length_eq_zero hs]; rfl
  | cons a u ih =>
    obtain ⟨b, e, rfl⟩ := List.exists_cons_of_length_eq_add_one he
    obtain ⟨c, s, rfl⟩ := List.exists_cons_of_length_eq_add_one hs
    simp only [List.length_cons, Nat.add_right_cancel_iff] at he hs
    simp only [List.cons_append, mixBlock, ih he hs]

/-! ### Lines -/

/-- A line whose FIFO holds a block of n samples, and no more than its capacity. -/
def Line.holds (n : Nat) (l : Line) : Prop := n ≤ l.fb.level ∧ l.fb.level ≤ 2048 ∧ l.fb.sound

/-- The samples a second part pops are those behind the first part's, whatever the first part pushes. -/
theorem Fifo.pop_push_pop {f : Fifo} (h : f.sound) {m n : Nat} (hn : m + n ≤ f.level) (hl : f.level ≤ 2048)
    {v : List F32} (hv : v.length = m) :
    Fifo.pop n ((Fifo.pop m f).1.push v) = ((Fifo.pop (m + n) f).1.push v, (Fifo.pop n (Fifo.pop m f).1).2) := by
  have hlev := Fifo.pop_level m f
  rw [Fifo.pop_push n (Fifo.pop_sound m h) (by omega) v (by omega), Fifo.pop_add]

theorem Line.block_append (T : Transc) (i : Bool) (r : ChanRegs) {l : Line} {e e' : List F32}
    (h : l.holds (e.length + e'.length)) :
    l.block T i r (e ++ e') =
      (((l.block T i r e).1.block T i r e').1, (l.block T i r e).2 ++ ((l.block T i r e).1.block T i r e').2) := by
  obtain ⟨hn, hl, hs⟩ := h
  have hmix := feedbackMix_append l.gain e' (Fifo.pop e'.length (Fifo.pop e.length l.fb).1).2
    (Fifo.pop_length e.length l.fb).symm
  unfold Line.block
  simp only
  rw [Fifo.pop_push_pop hs hn hl (by simp), List.length_append, Fifo.pop_add]
  simp only [hmix, runBlock_append, runIf_append, Fifo.push_append]
  cases r.lateTapPost <;> rfl

/-- The sum of the lines' outputs as a fold in the order of the list. -/
theorem sumLines_snd (T : Transc) (i : Bool) (r : ChanRegs) (e : List F32) {ks : List (Fin 12)} (hk : ks.Nodup)
    (ls : Twelve Line) (s : List F32) : (sumLines T i r e ks ls s).2 =
      ks.foldl (fun s k => List.zipWith F32.add s ((ls.get k).block T i r e).2) s := by
  induction ks generalizing ls s with
  | nil => rfl
  | cons k ks ih =>
    rw [List.nodup_cons] at hk
    rw [sumLines_cons, ih hk.2, List.foldl_cons]
    exact List.foldl_ext _ _ _ fun a l hl => by rw [Twelve.get_set_ne fun h : l = k => hk.1 (h ▸ hl)]

/-- A fold of sums of blocks in two parts, for blocks y k of the length of the first part's sum. -/
theorem foldl_zipWith_append {ks : List (Fin 12)} {y y₁ y₂ : Fin 12 → List F32} {s : List F32} (s' : List F32)
    (hy : ∀ k ∈ ks, y k = y₁ k ++ y₂ k) (hlen : ∀ k ∈ ks, (y₁ k).length = s.length) :
    ks.foldl (fun a k => List.zipWith F32.add a (y k)) (s ++ s') =
      ks.foldl (fun a k => List.zipWith F32.add a (y₁ k)) s ++
        ks.foldl (fun a k => List.zipWith F32.add a (y₂ k)) s' := by
  induction ks generalizing s s' with
  | nil => rfl
  | cons k ks ih =>
    rw [List.forall_mem_cons] at hy hlen
    have hlen' : ∀ j ∈ ks, (y₁ j).length = (List.zipWith F32.add s (y₁ k)).length := fun j hj => by
      rw [List.length_zipWith, hlen.1, Nat.min_self, hlen.2 j hj]
    rw [List.foldl_cons, hy.1, List.zipWith_append hlen.1.symm, ih _ hy.2 hlen']
    rfl

theorem sumLines_append (T : Transc) (i : Bool) (r : ChanRegs) {e : List F32} (e' : List F32) {ks : List (Fin 12)}
    (hk : ks.Nodup) {ls : Twelve Line} (h : ∀ k ∈ ks, (ls.get k).holds (e.length + e'.length)) {s : List F32}
    (s' : List F32) (hs : s.length = e.length) :
    sumLines T i r (e ++ e') ks ls (s ++ s') =
      ((sumLines T i r e' ks (sumLines T i r e ks ls s).1 s').1,
        (sumLines T i r e ks ls s).2 ++ (sumLines T i r e' ks (sumLines T i r e ks ls s).1 s').2) := by
  have hget : ∀ k ∈ ks, (sumLines T i r e ks ls s).1.get k = ((ls.get k).block T i r e).1 := fun k hm =>
    sumLines_get_of_mem T i r e hk ls s hm
  refine Prod.ext (Twelve.ext_get fun k => ?lines) ?sum
  case lines =>
    by_cases hm : k ∈ ks
    · rw [sumLines_get_of_mem _ _ _ _ hk _ _ hm, sumLines_get_of_mem _ _ _ _ hk _ _ hm, hget k hm,
        Line.block_append T i r (h k hm)]
    · rw [sumLines_get _ _ _ _ _ _ _ hm, sumLines_get _ _ _ _ _ _ _ hm, sumLines_get _ _ _ _ _ _ _ hm]
  case sum =>
    rw [sumLines_snd _ _ _ _ hk, sumLines_snd _ _ _ _ hk, sumLines_snd _ _ _ _ hk]
    refine foldl_zipWith_append s' (fun k hm => ?_) (fun k _ => (Line.block_length ..).trans hs.symm)
    rw [Line.block_append T i r (h k hm), hget k hm]

/-! ### Channels -/

section
variable (T : Transc) (i : Bool) (c : Channel) (u v : List F32)

theorem Channel.afterHpc_append : c.afterHpc (u ++ v) = c.afterHpc u ++ (c.block T i u).1.afterHpc v := by
  simp [Channel.afterHpc, runIf_append]

theorem Channel.afterLpc_append : c.afterLpc (u ++ v) = c.afterLpc u ++ (c.block T i u).1.afterLpc v := by
  simp [Channel.afterLpc, Channel.afterHpc_append T i, runIf_append]

theorem Channel.afterPre_append : c.afterPre T i (u ++ v) = c.afterPre T i u ++ (c.block T i u).1.afterPre T i v := by
  simp [Channel.afterPre, Channel.afterLpc_append T i, runBlock_append]

theorem Channel.afterMt_append : c.afterMt T i (u ++ v) = c.afterMt T i u ++ (c.block T i u).1.afterMt T i v := by
  simp [Channel.afterMt, Channel.afterPre_append, runIf_append]

theorem Channel.early_append : c.early T i (u ++ v) = c.early T i u ++ (c.block T i u).1.early T i v := by
  simp [Channel.early, Channel.afterMt_append, runIf_append]

theorem Channel.late_append (h : ∀ l ∈ c.activeLines, (c.lines.get l).holds (u.length + v.length)) :
    c.late T i (u ++ v) =
      (((c.block T i u).1.late T i v).1, (c.late T i u).2 ++ ((c.block T i u).1.late T i v).2) := by
  rw [Channel.late, Channel.early_append, List.map_append]
  exact sumLines_append T i c.regs _ c.activeLines_nodup (by simpa using h) _ (by simp)

/-- A channel block in two parts: each stage in two parts, the late one by the FIFOs of the active lines. -/
theorem Channel.block_append (h : ∀ l ∈ c.activeLines, (c.lines.get l).holds (u.length + v.length)) :
    c.block T i (u ++ v) =
      (((c.block T i u).1.block T i v).1, (c.block T i u).2 ++ ((c.block T i u).1.block T i v).2) := by
  refine Prod.ext ?state ?outputs
  case state =>
    rw [Channel.block_eq, Channel.block_eq T i (c.block T i u).1]
    simp only [Channel.afterHpc_append T i, Channel.afterLpc_append T i, Channel.afterPre_append, Channel.afterMt_append,
      c.late_append T i u v h, runIf_append, runBlock_append, List.map_append]
    rfl
  case outputs =>
    simp only [Channel.block_outputs]
    rw [Channel.early_append, c.late_append T i u v h]
    exact mixBlock_append _ _ _ _ _ (by simp) (by simp)

end

end Sys2Proof.Machine
end

section
open Sys2Proof Sys2Proof.Machine

/-- Settles O39: the premise is that the FIFO of every active line holds the block. -/
theorem chunkingInvariance : Obligations.ChunkingInvariance := by
  unfold Obligations.ChunkingInvariance
  intro T i c u v h
  refine c.block_append T i u v fun l hl => ?_
  obtain ⟨hn, hlevel, hrd, hwf⟩ := h l ((c.mem_activeLines l).1 hl)
  exact ⟨hn, hlevel, hrd, hwf⟩
end

section
/-!
NOP, SYNC, WREG, RREG and CLEAR (45_control.md R450-R453, R458): what each resolves and refuses, and the state after it.
-/

namespace Sys2Proof.Machine

/-! ### SYNC, and the stall -/

theorem syncCheck_reserved {ch : BitVec 2} {sel : BitVec 12} (h : ch ≠ 0 ∨ sel ≠ 0) :
    syncCheck ch sel = .error .reserved :=
  if_pos (by simpa using h)

theorem exec_nop {s : State} {rest : List Word} (hs : s.cmdFifo = encode (.nop 0 0 0) ++ rest) :
    exec (.nop 0 0 0) s = .next (s.completed 1 rest) :=
  congrArg Host.Outcome.next (State.consume_eq hs rfl)

theorem exec_sync {n : BitVec 12} {s : State} {rest : List Word} (hl : s.rspFifo.length < 64)
    (hs : s.cmdFifo = encode (.sync 0 0 n) ++ rest) :
    exec (.sync 0 0 n) s =
      .next (State.completed { s with rspFifo := s.rspFifo ++ [n.setWidth 32], ip := s.ip ||| 0b000001 } 1 rest) :=
  (whenRoom_room hl).trans
    (congrArg Host.Outcome.next (State.consume_eq (s := (s.pushRsp _).raiseIrq .sync) hs rfl))

/-- Every command that pushes a response makes no step while the response FIFO is full; the stall comes before its checks
(45_control.md R451). -/
theorem stalls_of_responds {i : Instr} (h : responds i = true) : Stalls i := by
  intro s hs
  cases i with
  | sync | rreg | rngu | rngi | rngf | rngb | bqresp | rder => exact whenRoom_full hs
  | _ => cases h

/-- STATUS.STALL is set in front of a command that responds while the response FIFO is full (10_state.md R44). -/
theorem State.status_stall {s : State} {i : Instr} {rest : List Word} (hi : responds i = true) (hh : s.halt = false)
    (hl : s.rspFifo.length = 64) (hs : s.cmdFifo = encode i ++ rest) : s.status.getLsbD 6 = true := by
  have hfull : s.rspFull = true := (State.rspFull_iff s).2 hl.ge
  rw [State.status_getLsbD, State.stall_encode hs, hh, hi, hfull]
  rfl

/-! ### RREG -/

theorem rregCheck_reserved (ch : BitVec 2) (sel : BitVec 12) {n : BitVec 12} (h : n ≠ 0) :
    rregCheck ch sel n = .error .reserved :=
  if_pos (by simpa using h)

theorem rregCheck_badCh {ch : BitVec 2} (sel : BitVec 12) (h : ch = 0b00 ∨ ch = 0b11) :
    rregCheck ch sel 0 = .error .badCh := by
  simp [rregCheck, oneChan_eq_none h]

theorem rregCheck_badSel (k : Chan) {sel : BitVec 12} (h : Reg.ofSel sel = none) :
    rregCheck (maskOf k) sel 0 = .error .badSel := by
  simp [rregCheck, oneChan_maskOf, h]

/-- RREG resolves every listed register, of the channel its mask names (45_control.md R453). -/
theorem rregCheck_of_ofSel (k : Chan) {sel : BitVec 12} {r : Reg} (h : Reg.ofSel sel = some r) :
    rregCheck (maskOf k) sel 0 = .ok (k, r) := by
  simp [rregCheck, oneChan_maskOf, h]

theorem exec_rreg {k : Chan} {sel : BitVec 12} {r : Reg} {s : State} {rest : List Word} (hr : Reg.ofSel sel = some r)
    (hl : s.rspFifo.length < 64) (hs : s.cmdFifo = encode (.rreg (maskOf k) sel 0) ++ rest) :
    exec (.rreg (maskOf k) sel 0) s =
      .next (State.completed { s with rspFifo := s.rspFifo ++ [s.readReg k r] } 1 rest) := by
  rw [exec, execRreg, whenRoom_room hl, rregCheck_of_ofSel k hr, checked_ok]
  exact congrArg Host.Outcome.next (State.consume_eq (s := s.pushRsp _) hs rfl)

/-! ### WREG -/

theorem wregCheck_reserved (ch : BitVec 2) (sel : BitVec 12) {n : BitVec 12} (value : Word) (h : n ≠ 0) :
    wregCheck ch sel n value = .error .reserved :=
  if_pos (by simpa using h)

theorem wregCheck_badCh (sel : BitVec 12) (value : Word) : wregCheck 0 sel 0 value = .error .badCh := rfl

/-- FS has SEL 0x000 alone (10_state.md R53). -/
theorem ofSel_eq_fs_iff {sel : BitVec 12} : Reg.ofSel sel = some (.glob .fs) ↔ sel = 0x000 := by
  refine ⟨fun h => ?_, fun h => h ▸ rfl⟩
  unfold Reg.ofSel at h
  split at h
  case h_1 hsel => exact BitVec.eq_of_toNat_eq hsel
  all_goals cases h

theorem wregCheck_badSel {ch : BitVec 2} {sel : BitVec 12} (value : Word) (hch : ch ≠ 0)
    (h : Reg.ofSel sel = none ∨ sel = 0x000) : wregCheck ch sel 0 value = .error .badSel := by
  have hofSel : Reg.ofSel sel = none ∨ Reg.ofSel sel = some (.glob .fs) := h.imp_right ofSel_eq_fs_iff.2
  unfold wregCheck
  rw [if_neg (by simp), if_neg (by simpa using hch)]
  obtain h | h := hofSel <;> rw [h]

/-- A register refuses the words that its type does not accept (45_control.md R452). -/
theorem wregCheck_badValue {ch : BitVec 2} {sel : BitVec 12} {value : Word} {r : Reg} (hch : ch ≠ 0)
    (hr : Reg.ofSel sel = some r) (hfs : r ≠ .glob .fs) (hv : r.type.accept value = none) :
    wregCheck ch sel 0 value = .error .badValue := by
  unfold wregCheck
  rw [hr, if_neg (by simp), if_neg (by simpa using hch)]
  split <;> simp_all

/-- WREG resolves the register its SEL names (45_control.md R452). -/
theorem ofSel_of_wregCheck {ch : BitVec 2} {sel n : BitVec 12} {value v : Word} {r : Reg}
    (h : wregCheck ch sel n value = .ok (r, v)) : Reg.ofSel sel = some r := by
  unfold wregCheck at h
  repeat' split at h
  all_goals cases h
  assumption

theorem exec_wreg {ch : BitVec 2} {sel : BitVec 12} {value v : Word} {r : Reg} {s : State} {rest : List Word}
    (hch : ch ≠ 0) (hr : Reg.ofSel sel = some r) (hfs : r ≠ .glob .fs) (hv : r.type.accept value = some v)
    (hs : s.cmdFifo = encode (.wreg ch sel 0 value) ++ rest) :
    exec (.wreg ch sel 0 value) s = .next ((s.writeReg Config.transc ch r v).completed 2 rest) := by
  have hc : (s.writeReg Config.transc ch r v).cmdFifo = encode (.wreg ch sel 0 value) ++ rest := by
    cases r with
    | glob g => exact hs
    | chan c => rw [State.writeReg, State.onChannels_cmdFifo, hs]
  rw [exec, execWreg, wregWith, wregCheck_of_accept hch hr hfs hv, checked_ok, State.consume_eq (len := 2) hc rfl]

/-- A WREG of a global register leaves both channels as they were, whether it completes or is refused (45_control.md
R457). -/
theorem exec_wreg_glob_channels {ch : BitVec 2} {sel n : BitVec 12} {value : Word} {g : GReg} {s t : State}
    (hg : Reg.ofSel sel = some (.glob g)) (h : exec (.wreg ch sel n value) s = .next t) :
    t.chL = s.chL ∧ t.chR = s.chR := by
  obtain ⟨c, -, rfl⟩ | ⟨⟨r, v⟩, hr, ht⟩ := checked_cases h
  · simp
  · obtain rfl : r = .glob g := Option.some.inj ((ofSel_of_wregCheck hr).symm.trans hg)
    cases ht
    simp [State.writeReg]

/-! ### CLEAR -/

theorem clearCheck_reserved (ch : BitVec 2) (sel : BitVec 12) {n : BitVec 12} (h : n ≠ 0) :
    clearCheck ch sel n = .error .reserved :=
  if_pos (by simpa using h)

theorem clearCheck_badCh (sel : BitVec 12) : clearCheck 0 sel 0 = .error .badCh := rfl

theorem clearCheck_badSel {ch : BitVec 2} {sel : BitVec 12} (hch : ch ≠ 0) (h : UnitRef.ofSel sel = none) :
    clearCheck ch sel 0 = .error .badSel := by
  simpa [clearCheck, h] using hch

/-- CLEAR resolves every per-channel unit (45_control.md R458). -/
theorem clearCheck_of_ofSel {ch : BitVec 2} {sel : BitVec 12} {u : UnitRef} (hch : ch ≠ 0)
    (h : UnitRef.ofSel sel = some u) : clearCheck ch sel 0 = .ok u := by
  simpa [clearCheck, h] using hch

theorem exec_clear {ch : BitVec 2} {sel : BitVec 12} {u : UnitRef} {s : State} {rest : List Word} (hch : ch ≠ 0)
    (hu : UnitRef.ofSel sel = some u) (hs : s.cmdFifo = encode (.clear ch sel 0) ++ rest) :
    exec (.clear ch sel 0) s = .next ((s.mapped ch (fun _ c => c.clearUnit u)).completed 1 rest) := by
  rw [exec, execClear, clearCheck_of_ofSel hch hu, checked_ok, State.onChannels_eq]
  exact congrArg Host.Outcome.next (State.consume_eq (s := s.mapped ch _) hs rfl)

end Sys2Proof.Machine
end

section
open Sys2Proof Sys2Proof.Machine

/-- Settles O10: NOP passes its check on zero fields alone, and then only its word is consumed. -/
theorem nopConsumesItsWord : Obligations.NopConsumesItsWord :=
  ⟨by decide, fun _ _ => exec_nop, fun _ _ _ h => refuses_of_check rfl (noFieldsCheck_reserved h)⟩

/-- Settles O11: SYNC by its check, the stall by the responding commands one by one, and STATUS by the command at the head
of the FIFO. -/
theorem syncPushesTag : Obligations.SyncPushesTag :=
  ⟨fun _ _ _ => exec_sync, fun _ _ _ h => refuses_of_check rfl (syncCheck_reserved h), fun _ => stalls_of_responds,
    fun _ _ _ => State.status_stall⟩

/-- Settles O17: RREG pushes the register that its check resolves, in the channel its mask names. -/
theorem rregPushesStored : Obligations.RregPushesStored := by
  unfold Obligations.RregPushesStored
  refine ⟨fun k sel r s rest hr hl hs => ?_, fun ch sel n h => refuses_of_check rfl (rregCheck_reserved ch sel h),
    fun ch sel h => refuses_of_check rfl (rregCheck_badCh sel h),
    fun k sel h => refuses_of_check rfl (rregCheck_badSel k h),
    fun _ _ _ => stalls_of_responds rfl⟩
  rw [exec_rreg hr hl hs]
  cases r <;> rfl

/-- Settles O12: the check by its clauses in the order of the causes, and the store register kind by register kind. -/
theorem wregStoresConverted : Obligations.WregStoresConverted := by
  unfold Obligations.WregStoresConverted
  refine ⟨fun ch sel value r v s rest hch hr hfs hv hs => ?_,
    fun ch sel n value h => refuses_of_check rfl (wregCheck_reserved ch sel value h),
    fun sel value => refuses_of_check rfl (wregCheck_badCh sel value),
    fun ch sel value hch h => refuses_of_check rfl (wregCheck_badSel value hch h),
    fun ch sel value r lo hi hch hsel hr ht hnan => refuses_of_check rfl (wregCheck_badValue hch hr ?_ ?_),
    fun ch sel value r hi hch hr ht hlt => refuses_of_check rfl (wregCheck_badValue hch hr ?_ ?_)⟩
  case refine_1 =>
    rw [exec_wreg hch hr hfs hv hs]
    cases r with
    | glob g => rfl
    | chan c =>
      rw [State.writeReg, State.onChannels_eq]
      rfl
  · rintro rfl
    exact hsel (ofSel_eq_fs_iff.1 hr)
  · exact RegType.accept_eq_none_iff.2 (.inl ⟨lo, hi, ht, hnan⟩)
  · rintro rfl
    cases ht
  · exact RegType.accept_eq_none_iff.2 (.inr ⟨hi, ht, hlt⟩)
end

section
/-!
What a write of an enable register clears (45_control.md R457), and that no other register write clears anything.
-/

namespace Sys2Proof.Machine

/-! ### The eight enable registers -/

/-- An enable register stores whether the written word is nonzero (10_state.md R50). -/
theorem CReg.accept_enable {r : CReg} (hr : r ∈ enableRegs) (w : Word) : r.type.accept w = some (boolWord (w != 0)) := by
  fin_cases hr <;> rfl

/-- A bit of the stored word of a register, stored back. -/
theorem ChanRegs.set_get_enable {r : CReg} (hr : r ∈ enableRegs) (g : ChanRegs) : g.set r (g.get r) = g := by
  have hbit : ∀ b, (boolWord b != 0) = b := by decide
  fin_cases hr <;> simp only [ChanRegs.set, ChanRegs.get, hbit]

/-- The unit that an enable register's write effect clears, written out (45_control.md R457). -/
theorem Channel.writeEffect_enable {r : CReg} (hr : r ∈ enableRegs) (T : Transc) (fs : F32) (k : Chan) (changed : Bool)
    (c : Channel) : c.writeEffect T fs k r.effect changed = if changed then enableCleared r c else c := by
  fin_cases hr <;> rfl

/-- A write of an enable register clears its units if it changes the stored bit, and otherwise changes nothing
(45_control.md R457). -/
theorem Channel.writeReg_enable {r : CReg} (hr : r ∈ enableRegs) (T : Transc) (fs : F32) (k : Chan) (v : Word)
    (c : Channel) : c.writeReg T fs k r v =
      if c.regs.get r = v then c else enableCleared r { c with regs := c.regs.set r v } := by
  rw [Channel.writeReg, Channel.writeEffect_enable hr]
  by_cases h : c.regs.get r = v
  · subst h
    simp [ChanRegs.set_get_enable hr]
  · simp [h]

/-! ### The other registers -/

/-- Only the enable registers have an effect that clears (45_control.md R457). -/
theorem CReg.effect_ne_enable {r : CReg} (hr : r ∉ enableRegs) (t : EnableTarget) : r.effect ≠ .enable t := by
  have htable : ∀ q ∈ allCRegs, q.effect ∈ [.enable t] → q ∈ enableRegs := by
    cases t <;> decide
  simpa using CReg.effect_not_mem htable hr

/-- A filter history does not depend on the registers. -/
theorem Channel.history_set_regs (c : Channel) (g : ChanRegs) {f : FieldRef} (hf : f.history = true) :
    Channel.readField { c with regs := g } f = c.readField f := by
  cases f with
  | onePole r | biquad r => cases r <;> rfl
  | _ => cases hf

theorem Channel.buffers_set_regs (c : Channel) (g : ChanRegs) :
    Channel.buffers { c with regs := g } .chan = c.buffers .chan := rfl

end Sys2Proof.Machine
end

section
open Sys2Proof Sys2Proof.Machine

/-- Settles O15: an enable register's write is written out in one channel, any other effect is a derivation, and a global
register touches no channel. -/
theorem enableClears : Obligations.EnableClears := by
  unfold Obligations.EnableClears
  refine ⟨fun ch sel value r s rest hr hch hsel hs => ?_, fun T fs k r v c hr => ?_,
    fun _ _ _ _ _ _ _ hg h => exec_wreg_glob_channels hg h⟩
  · rw [exec_wreg hch hsel nofun (CReg.accept_enable hr value) hs, State.writeReg, State.onChannels_eq]
    simp only [Channel.writeReg_enable hr]
  · have hderived := Channel.derived_writeEffect T fs k r.effect (c.regs.get r != v) { c with regs := c.regs.set r v }
      (CReg.effect_ne_enable hr)
    exact ⟨hderived.buffers.trans (c.buffers_set_regs _),
      fun f hf => (hderived.history hf).trans (c.history_set_regs _ hf)⟩
end

section
/-!
A channel after DERIVE_ALL and CLEAR_ALL (45_control.md R454, R455, R461): unit by unit it depends on the registers and the
rate alone, but for the pointers and what no derivation writes.
-/

namespace Sys2Proof.Machine

/-! ### The units -/

/-- Two rows of values listed in order are the same if and only if each value is. -/
theorem map_firstTwelve_inj {α : Type} {f g : Fin 12 → α} :
    (firstTwelve 12).map f = (firstTwelve 12).map g ↔ ∀ k, f k = g k := by
  simp [List.map_inj_left, mem_firstTwelve]

theorem OnePole.derive_clear_congr {u v : OnePole} (h : u.highPass = v.highPass) (T : Transc) (fs fc : F32) :
    (u.derive T fs fc).clear = (v.derive T fs fc).clear := by
  simp only [OnePole.derive, OnePole.clear, h]

theorem Biquad.derive_clear_congr (u v : Biquad) (T : Transc) (fs : F32) (type : BqType) (freq gainDb q : F32) :
    (u.derive T fs type freq gainDb q).clear = (v.derive T fs type freq gainDb q).clear := by
  simp only [Biquad.derive, Biquad.clear]

/-- A refreshed and cleared tap keeps its write index and its LFO alone (42_allpass_delay.md R301, R307). -/
theorem Tap.refresh_clear_congr {t u : Tap} (h : t.pointers = u.pointers) (n sd : Nat) (amt rate : F32) :
    (Tap.refresh n { t with sd := sd, amt := amt, rate := rate }).clear =
      (Tap.refresh n { u with sd := sd, amt := amt, rate := rate }).clear := by
  simp only [Tap.pointers, Prod.mk.injEq] at h
  obtain ⟨hwidx, hphase, hcounter, hmod⟩ := h
  simp only [Tap.clear, Tap.refresh, Tap.totalDelay, hwidx, hphase, hcounter, hmod]

/-- A derived and cleared diffuser keeps the pointers of its stages alone (42_allpass_delay.md R309, R313). -/
theorem Diff.deriveAll_clear_congr {d e : Diff} (h : d.pointers = e.pointers) (T : Transc) (fs : F32) (seed : Word)
    (cs delayMs amtMs rateHz g : F32) (count : Nat) (modEn : Bool) :
    (d.deriveAll T fs seed cs delayMs amtMs rateHz g count modEn).clear =
      (e.deriveAll T fs seed cs delayMs amtMs rateHz g count modEn).clear := by
  have hstages : (d.deriveAll T fs seed cs delayMs amtMs rateHz g count modEn).stages.map Apf.clear =
      (e.deriveAll T fs seed cs delayMs amtMs rateHz g count modEn).stages.map Apf.clear := by
    refine Twelve.ext_get fun k => ?_
    have hk := map_firstTwelve_inj.1 h k
    simp only [Twelve.get_map, Diff.deriveAll_stage, Diff.deriveStage, Apf.clear, Tap.refresh_clear_congr hk]
  rw [Diff.clear, Diff.clear, hstages]
  rfl

/-- A reseeded, derived and cleared multi-tap keeps its write index and the entries of IDX and W at and beyond its count
(43_multitap.md R361, R362, R364). -/
theorem Mt.derive_clear_congr {m n : Mt} {count : Nat} (hwidx : m.widx = n.widx)
    (hidx : m.idx.drop count = n.idx.drop count) (hw : m.w.drop count = n.w.drop count) (T : Transc) (fs : F32)
    (seed : Word) (cs ms decay : F32) :
    ((m.reseed T seed cs).derive T fs count ms decay).clear = ((n.reseed T seed cs).derive T fs count ms decay).clear := by
  simp only [Mt.reseed, Mt.derive, Mt.clear, hwidx, hidx, hw]

/-- A derived and cleared line keeps its pointers and the mode of its damping filter (44_fdn_channel.md R390, R392). -/
theorem Line.deriveAll_clear_congr {u v : Line} (h : u.pointers = v.pointers)
    (hmode : u.damp.highPass = v.damp.highPass) (T : Transc) (fs cs : F32) (r : ChanRegs) (l : Fin 12) :
    (Line.deriveAll T fs cs r l u).clear = (Line.deriveAll T fs cs r l v).clear := by
  simp only [Line.pointers, Prod.mk.injEq] at h
  obtain ⟨hrd, hlevel, hmdly, hdif⟩ := h
  simp only [Line.deriveAll, Line.update, Line.clear, Fifo.clear, hrd, hlevel, Tap.refresh_clear_congr hmdly,
    Diff.deriveAll_clear_congr hdif, Biquad.derive_clear_congr u.lsh v.lsh, Biquad.derive_clear_congr u.hsh v.hsh,
    OnePole.derive_clear_congr hmode]

/-! ### The channel -/

/-- A legal BQX_TYPE names a response (41_filters.md R255). -/
theorem BqType.exists_of_le {w : Word} (h : w.toNat ≤ 8) : ∃ type, BqType.ofWord w = some type := by
  unfold BqType.ofWord
  generalize w.toNat = n at h
  interval_cases n <;> exact ⟨_, rfl⟩

/-- Two derivations of channels with the same registers, pointers and fixed parts are cleared to the same channel. -/
theorem Channel.AllDerived.clearAll_congr {T : Transc} {fs : F32} {k : Chan} {c d c' d' : Channel}
    (hc : Channel.AllDerived T fs k c c') (hd : Channel.AllDerived T fs k d d') (hregs : c.regs = d.regs)
    (htype : c.regs.bqxType.toNat ≤ 8) (hpointers : c.pointers = d.pointers) (hfixed : c.fixed = d.fixed) :
    c'.clearAll = d'.clearAll := by
  obtain ⟨type, htype⟩ := BqType.exists_of_le htype
  simp only [Channel.pointers, Prod.mk.injEq, map_firstTwelve_inj] at hpointers
  obtain ⟨hpre, hwidx, hed, hlines⟩ := hpointers
  simp only [Channel.fixed, Prod.mk.injEq, map_firstTwelve_inj, hregs] at hfixed
  obtain ⟨hhpc, hlpc, hdamp, hidx, hw⟩ := hfixed
  have hline : c'.lines.map Line.clear = d'.lines.map Line.clear := by
    refine Twelve.ext_get fun l => ?_
    simp only [Twelve.get_map, hc.line, hd.line, hregs, Line.deriveAll_clear_congr (hlines l) (hdamp l)]
  simp only [Channel.clearAll, Channel.mk.injEq]
  refine ⟨?_, ?_, ?_, ?_, ?_, ?_, ?_, hline, ?_, ?_, ?_, ?_⟩
  · rw [hc.regs, hd.regs, hregs]
  · rw [hc.hpc, hd.hpc, hregs, OnePole.derive_clear_congr hhpc]
  · rw [hc.lpc, hd.lpc, hregs, OnePole.derive_clear_congr hlpc]
  · rw [hc.pre, hd.pre, hregs, Tap.refresh_clear_congr hpre]
  · rw [hc.mt, hd.mt, hregs, Mt.derive_clear_congr hwidx hidx hw]
  · rw [hc.ed, hd.ed, hregs, Diff.deriveAll_clear_congr hed]
  · rw [hc.bqx type htype, hd.bqx type (hregs ▸ htype), hregs, Biquad.derive_clear_congr c.bqx d.bqx]
  · rw [hc.cs, hd.cs, hregs]
  · rw [hc.lineVec, hd.lineVec, hregs]
  · rw [hc.nomLine, hd.nomLine, hregs]
  · rw [hc.decaySamples, hd.decaySamples, hregs]

end Sys2Proof.Machine
end

section
open Sys2Proof Sys2Proof.Machine

/-- Settles O19: both channels are derived unit by unit, and a clear leaves of each unit what the premises fix. -/
theorem setfsFromRegisters : Obligations.SetfsFromRegisters := by
  unfold Obligations.SetfsFromRegisters
  intro T fs k c d
  exact (Channel.allDerived_deriveAll T fs k c).clearAll_congr (Channel.allDerived_deriveAll T fs k d)
end

section
/-!
What a clear of one unit makes of every unit of a channel (45_control.md R458, R459, R462): a filter is cleared if the
cleared unit covers it, a buffer emptied if it is part of the cleared unit, and nothing else changes.
-/

namespace Sys2Proof.Machine

section
variable (c : Channel) (u : UnitRef)

/-! ### Lines -/

@[simp] theorem Channel.get_clearAll_lines (l : Fin 12) : c.clearAll.lines.get l = (c.lines.get l).clear :=
  Twelve.get_map ..

/-- What a clear of a line makes of a part of every line: of the line itself what the clear of that part does. -/
theorem Channel.line_clear_congr {α : Type} {φ : Line → α} {ψ : α → α} (hφ : ∀ m, φ m.clear = ψ (φ m)) (l k : Fin 12) :
    φ ((c.clearUnit (.line l)).lines.get k) = if l == k then ψ (φ (c.lines.get k)) else φ (c.lines.get k) := by
  rw [Channel.clearUnit, Channel.setLine, Twelve.get_set]
  obtain rfl | h := eq_or_ne l k
  · simp [hφ]
  · simp [h, h.symm]

theorem Channel.gain_clearUnit (l : Fin 12) : ((c.clearUnit u).lines.get l).gain = (c.lines.get l).gain := by
  cases u with
  | line k => simpa using c.line_clear_congr (φ := Line.gain) (ψ := id) (fun _ => rfl) k l
  | chan => simp [Channel.clearUnit, Line.clear]
  | mt => rfl
  | _ => simp [Channel.clearUnit, Channel.setApf]

/-- A FIFO is cleared with its line or its channel (44_fdn_channel.md R390). -/
theorem Channel.fb_clearUnit (l : Fin 12) : ((c.clearUnit u).lines.get l).fb =
    if u.empties (.line l) then (c.lines.get l).fb.clear else (c.lines.get l).fb := by
  cases u with
  | line k => simpa [UnitRef.empties] using c.line_clear_congr (φ := Line.fb) (fun _ => rfl) k l
  | chan => simp [Channel.clearUnit, UnitRef.empties, Line.clear]
  | mt => rfl
  | _ => simp [Channel.clearUnit, UnitRef.empties, Channel.setApf]

theorem Channel.fb_pointers_clearUnit (l : Fin 12) :
    ((c.clearUnit u).lines.get l).fb.rd = (c.lines.get l).fb.rd ∧
      ((c.clearUnit u).lines.get l).fb.level = (c.lines.get l).fb.level := by
  rw [Channel.fb_clearUnit]
  split <;> exact ⟨rfl, rfl⟩

/-! ### Filters -/

theorem Channel.onePole_clearUnit (r : OnePoleRef) :
    (c.clearUnit u).onePole r = if u.covers (.onePole r) then (c.onePole r).clear else c.onePole r := by
  cases u with
  | onePole q =>
    obtain rfl | h := eq_or_ne q r
    · simp [Channel.clearUnit, UnitRef.covers]
    · simp [Channel.clearUnit, UnitRef.covers, h, h.symm]
  | line l =>
    cases r with
    | damp k => exact c.line_clear_congr (φ := Line.damp) (fun _ => rfl) l k
    | hpc | lpc => rfl
  | chan =>
    cases r with
    | damp k => exact congrArg Line.damp (c.get_clearAll_lines k)
    | hpc | lpc => rfl
  | mt => cases r <;> rfl
  | _ => simp [Channel.clearUnit, UnitRef.covers, Channel.setApf]

theorem Channel.biquad_clearUnit (r : BiquadRef) :
    (c.clearUnit u).biquad r = if u.covers (.biquad r) then (c.biquad r).clear else c.biquad r := by
  cases u with
  | biquad q =>
    obtain rfl | h := eq_or_ne q r
    · simp [Channel.clearUnit, UnitRef.covers]
    · simp [Channel.clearUnit, UnitRef.covers, h, h.symm]
  | line l =>
    cases r with
    | lsh k => exact c.line_clear_congr (φ := Line.lsh) (fun _ => rfl) l k
    | hsh k => exact c.line_clear_congr (φ := Line.hsh) (fun _ => rfl) l k
    | bqx => rfl
  | chan =>
    cases r with
    | lsh k => exact congrArg Line.lsh (c.get_clearAll_lines k)
    | hsh k => exact congrArg Line.hsh (c.get_clearAll_lines k)
    | bqx => rfl
  | mt => cases r <;> rfl
  | _ => simp [Channel.clearUnit, UnitRef.covers, Channel.setApf]

/-! ### Delays -/

theorem Channel.mdly_clearUnit (r : MdlyRef) :
    (c.clearUnit u).mdly r = if u.empties (.mdly r) then (c.mdly r).clear else c.mdly r := by
  cases u with
  | mdly q =>
    obtain rfl | h := eq_or_ne q r
    · simp [Channel.clearUnit, UnitRef.empties]
    · simp [Channel.clearUnit, UnitRef.empties, h, h.symm]
  | line l =>
    cases r with
    | line k => exact c.line_clear_congr (φ := Line.mdly) (fun _ => rfl) l k
    | pre => rfl
  | chan =>
    cases r with
    | line k => exact congrArg Line.mdly (c.get_clearAll_lines k)
    | pre => rfl
  | mt => cases r <;> rfl
  | _ => simp [Channel.clearUnit, UnitRef.empties, Channel.setApf]

theorem Channel.mt_clearUnit : (c.clearUnit u).mt = if u.empties .mt then c.mt.clear else c.mt := by
  cases u with
  | mt | line | chan => rfl
  | _ => simp [Channel.clearUnit, UnitRef.empties, Channel.setApf]

@[simp] theorem Diff.get_clear_stages (d : Diff) (s : Fin 12) : d.clear.stages.get s = (d.stages.get s).clear :=
  Twelve.get_map ..

theorem Channel.apf_clearUnit (d : DiffRef) (s : Fin 12) :
    (c.clearUnit u).apf d s = if u.empties (.apf d s) then (c.apf d s).clear else c.apf d s := by
  cases u with
  | apf e k =>
    rw [Channel.clearUnit, Channel.apf_setApf]
    by_cases h : e = d ∧ k = s
    · simp [UnitRef.empties, h]
    · simp [UnitRef.empties, h, eq_comm (a := d), eq_comm (a := s)]
  | diff e =>
    obtain rfl | h := eq_or_ne e d
    · simp [Channel.clearUnit, UnitRef.empties, Channel.apf]
    · simp [Channel.clearUnit, UnitRef.empties, Channel.apf, h, h.symm]
  | line l =>
    cases d with
    | line k =>
      exact c.line_clear_congr (φ := fun m => m.dif.stages.get s) (fun m => m.dif.get_clear_stages s) l k
    | ed => rfl
  | chan =>
    cases d with
    | line k =>
      rw [Channel.clearUnit, Channel.apf, Channel.diff, Channel.get_clearAll_lines]
      exact Diff.get_clear_stages _ s
    | ed => exact Diff.get_clear_stages _ s
  | mt => cases d <;> rfl
  | _ => simp [Channel.clearUnit, UnitRef.empties, Channel.apf]

/-- A clear changes of a diffuser its stages alone (42_allpass_delay.md R313). -/
theorem Channel.diff_field_clearUnit (d : DiffRef) (f : DiffField) :
    ((c.clearUnit u).diff d).field f = (c.diff d).field f := by
  have hclear : ∀ d : Diff, d.clear.field f = d.field f := fun _ => by cases f <;> rfl
  cases u with
  | apf e k => exact c.diff_field_setApf e d k _ f
  | diff e =>
    rw [Channel.clearUnit, Channel.diff_setDiff]
    split
    · subst d
      exact hclear _
    · rfl
  | line l =>
    cases d with
    | line k =>
      exact (c.line_clear_congr (φ := fun m => m.dif.field f) (ψ := id) (fun m => hclear m.dif) l k).trans (ite_self _)
    | ed => rfl
  | chan =>
    cases d with
    | line k =>
      rw [Channel.clearUnit, Channel.diff, Channel.get_clearAll_lines]
      exact hclear _
    | ed => exact hclear _
  | mt => cases d <;> rfl
  | _ => simp [Channel.clearUnit]

/-! ### Fields and pointers -/

/-- A clear of a one-pole sets its history to +0 and keeps every other field (41_filters.md R253). -/
theorem OnePole.field_clear (o : OnePole) (r : OnePoleRef) (f : OnePoleField) :
    o.clear.field f = if (FieldRef.onePole r f).history then 0 else o.field f := by
  cases f <;> rfl

/-- A clear of a biquad sets its history to +0 and keeps every other field (41_filters.md R263). -/
theorem Biquad.field_clear (b : Biquad) (r : BiquadRef) (f : BiquadField) :
    b.clear.field f = if (FieldRef.biquad r f).history then 0 else b.field f := by
  cases f <;> rfl

theorem Channel.chanField_clearUnit (f : ChanField) : (c.clearUnit u).chanField f = c.chanField f := by
  cases u with
  | mt | line | chan => cases f <;> rfl
  | _ => simp [Channel.clearUnit, Channel.setApf]

/-- A clear sets the filter histories that it covers to +0 and keeps every other field (45_control.md R459, R462). -/
theorem Channel.readField_clearUnit (f : FieldRef) : (c.clearUnit u).readField f =
    if f.history && u.covers f.unit then 0 else c.readField f := by
  cases f with
  | onePole r f =>
    rw [Channel.readField, Channel.onePole_clearUnit, FieldRef.unit]
    cases u.covers (.onePole r)
    · simp [Channel.readField]
    · simpa [Channel.readField] using OnePole.field_clear _ r f
  | biquad r f =>
    rw [Channel.readField, Channel.biquad_clearUnit, FieldRef.unit]
    cases u.covers (.biquad r)
    · simp [Channel.readField]
    · simpa [Channel.readField] using Biquad.field_clear _ r f
  | apf d s f =>
    have hclear : ∀ a : Apf, a.clear.field f = a.field f := fun _ => by cases f <;> rfl
    rw [Channel.readField, Channel.apf_clearUnit, apply_ite (Apf.field · f), hclear]
    exact ite_self _
  | mdly r f =>
    have hclear : ∀ t : Tap, t.clear.field f = t.field f := fun _ => by cases f <;> rfl
    rw [Channel.readField, Channel.mdly_clearUnit, apply_ite (Tap.field · f), hclear]
    exact ite_self _
  | mt f =>
    have hclear : ∀ m : Mt, m.clear.field f = m.field f := fun _ => by cases f <;> rfl
    rw [Channel.readField, Channel.mt_clearUnit, apply_ite (Mt.field · f), hclear]
    exact ite_self _
  | diff d f => exact c.diff_field_clearUnit u d f
  | line l f =>
    cases f with
    | gain => exact congrArg F32.bits (c.gain_clearUnit u l)
    | fbLevel => exact congrArg natWord (c.fb_pointers_clearUnit u l).2
    | fbRdPtr => exact congrArg natWord (c.fb_pointers_clearUnit u l).1
  | chan f => exact c.chanField_clearUnit u f

/-- A clear moves no pointer (45_control.md R458). -/
theorem Channel.clearUnit_pointers : (c.clearUnit u).pointers = c.pointers := by
  have hmdly : ∀ r, ((c.clearUnit u).mdly r).pointers = (c.mdly r).pointers := fun r => by
    rw [c.mdly_clearUnit]
    split <;> rfl
  have hdiff : ∀ d, ((c.clearUnit u).diff d).pointers = (c.diff d).pointers := fun d =>
    map_firstTwelve_inj.2 fun s => by
      rw [← Channel.apf, c.apf_clearUnit]
      split <;> rfl
  have hmt : (c.clearUnit u).mt.widx = c.mt.widx := by
    rw [c.mt_clearUnit]
    split <;> rfl
  have hline : ∀ l, ((c.clearUnit u).lines.get l).pointers = (c.lines.get l).pointers := fun l => by
    obtain ⟨hrd, hlevel⟩ := c.fb_pointers_clearUnit u l
    have ht : ((c.clearUnit u).lines.get l).mdly.pointers = (c.lines.get l).mdly.pointers := hmdly (.line l)
    have hd : ((c.clearUnit u).lines.get l).dif.pointers = (c.lines.get l).dif.pointers := hdiff (.line l)
    rw [Line.pointers, Line.pointers, hrd, hlevel, ht, hd]
  have hpre : (c.clearUnit u).pre.pointers = c.pre.pointers := hmdly .pre
  have hed : (c.clearUnit u).ed.pointers = c.ed.pointers := hdiff .ed
  simp only [Channel.pointers, hpre, hmt, hed, hline]

/-! ### Buffers -/

/-- Every buffer of a cleared unit is empty (45_control.md R462). -/
theorem Channel.buffers_clearUnit : ∀ b ∈ (c.clearUnit u).buffers u, b = [] := by
  have hapf : ∀ d s, u.empties (.apf d s) = true → ((c.clearUnit u).apf d s).tap.buf = [] := fun d s h => by
    rw [c.apf_clearUnit, if_pos h]
    rfl
  have hmdly : ∀ r, u.empties (.mdly r) = true → ((c.clearUnit u).mdly r).buf = [] := fun r h => by
    rw [c.mdly_clearUnit, if_pos h]
    rfl
  cases u with
  | onePole | biquad => nofun
  | apf d s => simpa [Channel.buffers] using hapf d s (by simp [UnitRef.empties])
  | mdly r => simpa [Channel.buffers] using hmdly r (by simp [UnitRef.empties])
  | diff d => simpa [Channel.buffers] using fun s _ => hapf d s (by simp [UnitRef.empties])
  | mt => simp [Channel.buffers, Channel.clearUnit, Mt.clear]
  | line l =>
    have hfb : ((c.clearUnit (.line l)).lines.get l).fb.cells = [] := by
      rw [c.fb_clearUnit, if_pos (by simp [UnitRef.empties])]
      rfl
    have hline : ((c.clearUnit (.line l)).lines.get l).mdly.buf = [] := hmdly (.line l) (by simp [UnitRef.empties])
    simpa [Channel.buffers, hfb, hline] using fun s _ => hapf (.line l) s (by simp [UnitRef.empties])
  | chan => exact c.clearAll_buffers

end

end Sys2Proof.Machine
end

section
open Sys2Proof Sys2Proof.Machine

/-- Settles O20: the check by its clauses; a clear changes no register, no pointer and no field but the histories. -/
theorem clearZeroesUnit : Obligations.ClearZeroesUnit := by
  unfold Obligations.ClearZeroesUnit
  refine ⟨fun _ _ _ _ _ => exec_clear, fun ch sel n h => refuses_of_check rfl (clearCheck_reserved ch sel h),
    fun sel => refuses_of_check rfl (clearCheck_badCh sel), fun ch sel hch h => refuses_of_check rfl ?_,
    fun c u => ⟨c.clearUnit_regs u, c.clearUnit_pointers u, fun f hf => ?_, rfl⟩⟩
  · refine clearCheck_badSel hch (h.elim id ?_)
    rintro rfl
    decide
  · rw [c.readField_clearUnit, hf, Bool.false_and, if_neg Bool.false_ne_true]

/-- Settles O21: what a clear of one unit makes of each buffer, each field and each FIFO of the channel. -/
theorem clearedFields : Obligations.ClearedFields := by
  unfold Obligations.ClearedFields
  refine fun c u => ⟨c.buffers_clearUnit u, c.readField_clearUnit u, fun d s => ?_, fun r => ?_, ?_, c.fb_clearUnit u⟩
  · rw [c.apf_clearUnit]
    split <;> rfl
  · rw [c.mdly_clearUnit]
    split <;> rfl
  · rw [c.mt_clearUnit]
    split <;> rfl
end

section
/-!
Unit numbers (46_diagnostic.md R500): the number of each unit, range by range.
-/

namespace Sys2Proof.Machine

theorem fin12_eq_some {n : Nat} {l : Fin 12} : fin12 n = some l ↔ n = l := by
  simp only [fin12, Option.dite_none_right_eq_some, Option.some.injEq, Fin.ext_iff, exists_prop, and_iff_right_iff_imp]
  omega

theorem fin36_eq_some {n : Nat} {k : Fin 36} : fin36 n = some k ↔ n = k := by
  simp only [fin36, Option.dite_none_right_eq_some, Option.some.injEq, Fin.ext_iff, exists_prop, and_iff_right_iff_imp]
  omega

theorem fin256_eq_some {n : Nat} {j : Fin 256} : fin256 n = some j ↔ n = j := by
  simp only [fin256, Option.dite_none_right_eq_some, Option.some.injEq, Fin.ext_iff, exists_prop, and_iff_right_iff_imp]
  omega

theorem unitNumber_of_lowUnit {k : Nat} {u : UnitRef} (h : lowUnit k = some u) : k = unitNumber u := by
  unfold lowUnit at h
  split at h
  case h_8 =>
    split at h
    · obtain ⟨s, hs, rfl⟩ := Option.map_eq_some_iff.1 h
      rw [fin12_eq_some] at hs
      rw [unitNumber]
      omega
    · cases h
  all_goals
    cases h
    rfl

theorem unitNumber_of_lineUnit {l : Fin 12} {k : Nat} {u : UnitRef} (h : lineUnit l k = some u) :
    unitNumber u = 0x100 + 16 * l + k := by
  unfold lineUnit at h
  split at h <;> cases h <;> simp only [unitNumber] <;> omega

theorem unitNumber_of_ofSel {sel : BitVec 12} {u : UnitRef} (h : UnitRef.ofSel sel = some u) :
    sel.toNat = unitNumber u := by
  unfold UnitRef.ofSel at h
  dsimp only at h
  split_ifs at h
  · exact unitNumber_of_lowUnit h
  · split at h
    · rename_i l hl
      rw [fin12_eq_some] at hl
      rw [unitNumber_of_lineUnit h]
      omega
    · cases h
  · split at h
    · rename_i l s hl hs
      rw [fin12_eq_some] at hl hs
      cases h
      rw [unitNumber]
      omega
    · cases h

/-- A unit below 0x100 is resolved by the table of those. -/
theorem ofSel_of_lowUnit {sel : BitVec 12} {u : UnitRef} (h : sel.toNat = unitNumber u) (hn : unitNumber u < 0x100)
    (hu : lowUnit (unitNumber u) = some u) : UnitRef.ofSel sel = some u :=
  (if_pos (h ▸ hn)).trans (h ▸ hu)

/-- The unit k of line l is resolved from its number. -/
theorem ofSel_of_lineUnit {sel : BitVec 12} {l : Fin 12} (k : Nat) (hk : k < 16) (h : sel.toNat = 0x100 + k + 16 * l) :
    UnitRef.ofSel sel = lineUnit l k := by
  have hl : fin12 ((sel.toNat - 0x100) / 16) = some l := fin12_eq_some.2 (by omega)
  have hm : sel.toNat % 16 = k := by omega
  simp only [UnitRef.ofSel]
  rw [if_neg (by omega), if_pos (by omega), hl, hm]

theorem lowUnit_edStage (s : Fin 12) : lowUnit (0x010 + s) = some (.apf .ed s) := by
  revert s
  decide

/-- A stage of a line's diffuser is resolved from its number. -/
theorem ofSel_of_lineStage {sel : BitVec 12} {l s : Fin 12} (h : sel.toNat = 0x800 + 16 * l + s) :
    UnitRef.ofSel sel = some (.apf (.line l) s) := by
  have hl : fin12 ((sel.toNat - 0x800) / 16) = some l := fin12_eq_some.2 (by omega)
  have hs : fin12 (sel.toNat % 16) = some s := fin12_eq_some.2 (by omega)
  simp only [UnitRef.ofSel]
  rw [if_neg (by omega), if_neg (by omega), hl, hs]

/-- Each unit is resolved from its number. -/
theorem ofSel_of_unitNumber {sel : BitVec 12} {u : UnitRef} (h : sel.toNat = unitNumber u) :
    UnitRef.ofSel sel = some u := by
  cases u with
  | onePole r =>
    cases r with
    | hpc | lpc => exact ofSel_of_lowUnit h (by decide) rfl
    | damp l => exact ofSel_of_lineUnit 5 (by decide) h
  | biquad r =>
    cases r with
    | bqx => exact ofSel_of_lowUnit h (by decide) rfl
    | lsh l => exact ofSel_of_lineUnit 3 (by decide) h
    | hsh l => exact ofSel_of_lineUnit 4 (by decide) h
  | mdly r =>
    cases r with
    | pre => exact ofSel_of_lowUnit h (by decide) rfl
    | line l => exact ofSel_of_lineUnit 1 (by decide) h
  | diff r =>
    cases r with
    | ed => exact ofSel_of_lowUnit h (by decide) rfl
    | line l => exact ofSel_of_lineUnit 2 (by decide) h
  | apf d s =>
    cases d with
    | ed => exact ofSel_of_lowUnit h (by rw [unitNumber]; omega) (lowUnit_edStage s)
    | line l => exact ofSel_of_lineStage h
  | line l => exact ofSel_of_lineUnit 0 (by decide) h
  | mt | chan => exact ofSel_of_lowUnit h (by decide) rfl

end Sys2Proof.Machine
end

section
open Sys2Proof Sys2Proof.Machine

/-- Settles O34: each range of SEL numbers resolves the units of that range and nothing else. -/
theorem unitNumbers : Obligations.UnitNumbers :=
  ⟨fun _ _ => ⟨unitNumber_of_ofSel, ofSel_of_unitNumber⟩, rfl⟩
end

section
/-!
RDER (46_diagnostic.md R501, R503): the field of each number, what the check resolves and refuses, the state after it,
and the word of each field.
-/

namespace Sys2Proof.Machine

/-! ### The field of a number -/

theorem OnePoleField.ofN_eq_some_iff {n : Nat} {r : OnePoleRef} {f : OnePoleField} :
    OnePoleField.ofN n = some f ↔ n = fieldNumber (.onePole r f) := by
  constructor
  · intro h
    unfold OnePoleField.ofN at h
    split at h <;> cases h <;> rfl
  · rintro rfl
    cases f <;> rfl

theorem BiquadField.ofN_eq_some_iff {n : Nat} {r : BiquadRef} {f : BiquadField} :
    BiquadField.ofN n = some f ↔ n = fieldNumber (.biquad r f) := by
  constructor
  · intro h
    unfold BiquadField.ofN at h
    split at h <;> cases h <;> rfl
  · rintro rfl
    cases f <;> rfl

theorem TapField.ofN_eq_some_iff {n : Nat} {f : TapField} : TapField.ofN n = some f ↔ n = tapFieldNumber f := by
  constructor
  · intro h
    unfold TapField.ofN at h
    split at h <;> cases h <;> rfl
  · rintro rfl
    cases f <;> rfl

theorem LineField.ofN_eq_some_iff {n : Nat} {l : Fin 12} {f : LineField} :
    LineField.ofN n = some f ↔ n = fieldNumber (.line l f) := by
  constructor
  · intro h
    unfold LineField.ofN at h
    split at h <;> cases h <;> rfl
  · rintro rfl
    cases f <;> rfl

theorem ApfField.ofN_eq_some_iff {n : Nat} {d : DiffRef} {s : Fin 12} {f : ApfField} :
    ApfField.ofN n = some f ↔ n = fieldNumber (.apf d s f) := by
  constructor
  · intro h
    unfold ApfField.ofN at h
    split at h
    case h_3 =>
      obtain ⟨g, hg, rfl⟩ := Option.map_eq_some_iff.1 h
      exact TapField.ofN_eq_some_iff.1 hg
    all_goals
      cases h
      rfl
  · rintro rfl
    cases f with
    | tap f => cases f <;> rfl
    | g | modEn => rfl

theorem DiffField.ofN_vec (k : Fin 36) : DiffField.ofN (0x040 + k) = some (.vec k) := by
  revert k
  decide

theorem DiffField.ofN_eq_some_iff {n : Nat} {r : DiffRef} {f : DiffField} :
    DiffField.ofN n = some f ↔ n = fieldNumber (.diff r f) := by
  constructor
  · intro h
    unfold DiffField.ofN at h
    split at h
    case h_9 =>
      split_ifs at h
      obtain ⟨k, hk, rfl⟩ := Option.map_eq_some_iff.1 h
      rw [fin36_eq_some] at hk
      rw [fieldNumber]
      omega
    all_goals
      cases h
      rfl
  · rintro rfl
    cases f with
    | vec k => exact DiffField.ofN_vec k
    | _ => rfl

theorem ChanField.ofN_lineVec (k : Fin 36) : ChanField.ofN (0x040 + k) = some (.lineVec k) := by
  revert k
  decide

theorem ChanField.ofN_eq_some_iff {n : Nat} {f : ChanField} :
    ChanField.ofN n = some f ↔ n = fieldNumber (.chan f) := by
  constructor
  · intro h
    unfold ChanField.ofN at h
    split at h
    case h_5 =>
      split_ifs at h
      obtain ⟨k, hk, rfl⟩ := Option.map_eq_some_iff.1 h
      rw [fin36_eq_some] at hk
      rw [fieldNumber]
      omega
    all_goals
      cases h
      rfl
  · rintro rfl
    cases f with
    | lineVec k => exact ChanField.ofN_lineVec k
    | _ => rfl

/-- The numbers from 0x100 name the entries of the four vectors, 256 each (46_diagnostic.md R501). -/
theorem MtField.ofN_of_le {n : Nat} (h : 0x100 ≤ n) : MtField.ofN n =
    if n < 0x200 then (fin256 (n - 0x100)).map .gain
    else if n < 0x300 then (fin256 (n - 0x200)).map .pos
    else if n < 0x400 then (fin256 (n - 0x300)).map .w
    else (fin256 (n - 0x400)).map .idx := by
  rw [MtField.ofN, if_neg (by omega)] <;> omega

theorem MtField.ofN_eq_some_iff {n : Nat} {f : MtField} : MtField.ofN n = some f ↔ n = fieldNumber (.mt f) := by
  constructor
  · intro h
    unfold MtField.ofN at h
    split at h
    case h_7 =>
      split_ifs at h
      all_goals
        obtain ⟨j, hj, rfl⟩ := Option.map_eq_some_iff.1 h
        rw [fin256_eq_some] at hj
        rw [fieldNumber]
        omega
    all_goals
      cases h
      rfl
  · intro h
    cases f with
    | gain j | pos j | w j | idx j =>
      rw [fieldNumber] at h
      rw [MtField.ofN_of_le (by omega)]
      split_ifs
      any_goals omega
      exact Option.map_eq_some_iff.2 ⟨j, fin256_eq_some.2 (by omega), rfl⟩
    | _ => subst h; rfl

/-- The number of a unit's field is that of the table of the unit's kind (46_diagnostic.md R501). -/
theorem FieldRef.ofN_unit_iff {f : FieldRef} {n : BitVec 12} :
    FieldRef.ofN f.unit n = some f ↔ n.toNat = fieldNumber f := by
  cases f with
  | onePole r f => simp [FieldRef.unit, FieldRef.ofN, OnePoleField.ofN_eq_some_iff (r := r)]
  | biquad r f => simp [FieldRef.unit, FieldRef.ofN, BiquadField.ofN_eq_some_iff (r := r)]
  | apf d s f => simp [FieldRef.unit, FieldRef.ofN, ApfField.ofN_eq_some_iff (d := d) (s := s)]
  | mdly r f => simp [FieldRef.unit, FieldRef.ofN, TapField.ofN_eq_some_iff, fieldNumber]
  | diff r f => simp [FieldRef.unit, FieldRef.ofN, DiffField.ofN_eq_some_iff (r := r)]
  | mt f => simp [FieldRef.unit, FieldRef.ofN, MtField.ofN_eq_some_iff]
  | line l f => simp [FieldRef.unit, FieldRef.ofN, LineField.ofN_eq_some_iff (l := l)]
  | chan f => simp [FieldRef.unit, FieldRef.ofN, ChanField.ofN_eq_some_iff]

/-- A number names a field of the unit it is looked up for. -/
theorem FieldRef.unit_of_ofN {u : UnitRef} {n : BitVec 12} {f : FieldRef} (h : FieldRef.ofN u n = some f) :
    f.unit = u := by
  cases u
  all_goals
    obtain ⟨x, -, rfl⟩ := Option.map_eq_some_iff.1 h
    rfl

theorem FieldRef.ofN_eq_some_iff {u : UnitRef} {n : BitVec 12} {f : FieldRef} :
    FieldRef.ofN u n = some f ↔ f.unit = u ∧ n.toNat = fieldNumber f := by
  constructor
  · intro h
    obtain rfl := FieldRef.unit_of_ofN h
    exact ⟨rfl, FieldRef.ofN_unit_iff.1 h⟩
  · rintro ⟨rfl, h⟩
    exact FieldRef.ofN_unit_iff.2 h

/-! ### The check and the command -/

theorem rderCheck_rng_badCh {ch : BitVec 2} (n : BitVec 12) (h : ch ≠ 0) : rderCheck ch 0xF00 n = .error .badCh := by
  rw [rderCheck, if_pos (by decide), if_pos (by simpa using h)]

theorem rderCheck_rng_badField {n : BitVec 12} (h : n ≠ 0) : rderCheck 0 0xF00 n = .error .badField := by
  rw [rderCheck, if_pos (by decide), if_neg (by decide), if_pos (by simpa using h)]

theorem rderCheck_badCh {ch : BitVec 2} {sel : BitVec 12} (n : BitVec 12) (hs : sel ≠ 0xF00)
    (h : ch = 0b00 ∨ ch = 0b11) : rderCheck ch sel n = .error .badCh := by
  rw [rderCheck, if_neg (by simpa [rngSel] using hs), oneChan_eq_none h]

theorem rderCheck_badSel (k : Chan) {sel : BitVec 12} (n : BitVec 12) (hs : sel ≠ 0xF00)
    (hu : UnitRef.ofSel sel = none) : rderCheck (maskOf k) sel n = .error .badSel := by
  rw [rderCheck, if_neg (by simpa [rngSel] using hs), oneChan_maskOf, hu]

section
variable (k : Chan) {sel n : BitVec 12} {u : UnitRef} (hu : UnitRef.ofSel sel = some u)
include hu

theorem rderCheck_undefined (hf : FieldRef.ofN u n = none) : rderCheck (maskOf k) sel n = .error .badField := by
  rw [rderCheck, if_neg (by simpa using ne_rngSel_of_ofSel hu), oneChan_maskOf, hu]
  simp only [hf]

/-- RDER resolves every field of every unit of one channel (46_diagnostic.md R503). -/
theorem rderCheck_field {f : FieldRef} (hf : FieldRef.ofN u n = some f) :
    rderCheck (maskOf k) sel n = .ok (.unit k f) := by
  rw [rderCheck, if_neg (by simpa using ne_rngSel_of_ofSel hu), oneChan_maskOf, hu]
  simp only [hf]

end

/-- RDER with room for its response pushes what its check resolves (46_diagnostic.md R503). -/
theorem exec_rder {ch : BitVec 2} {sel n : BitVec 12} {r : RderRef} {s : State} {rest : List Word}
    (hr : rderCheck ch sel n = .ok r) (hl : s.rspFifo.length < 64) (hs : s.cmdFifo = encode (.rder ch sel n) ++ rest) :
    exec (.rder ch sel n) s = .next (State.completed { s with rspFifo := s.rspFifo ++ [s.readRef r] } 1 rest) := by
  rw [exec, execRder, whenRoom_room hl, hr, checked_ok]
  exact congrArg Host.Outcome.next (State.consume_eq (s := s.pushRsp _) hs rfl)

/-! ### The word of a field -/

/-- Beyond COUNT the tables of the multi-tap read as zero (46_diagnostic.md R501). -/
theorem Mt.field_beyond_count {m : Mt} {j : Fin 256} (h : m.count ≤ j.val) :
    m.field (.idx j) = 0 ∧ m.field (.w j) = 0 :=
  ⟨if_neg (by omega), if_neg (by omega)⟩

theorem Mt.field_w {m : Mt} {j : Fin 256} {x : F32} (h : j.val < m.count) (hx : m.w[j.val]? = some x) :
    m.field (.w j) = x.bits :=
  (if_pos h).trans (congrArg F32.bits (vecAt_of_getElem? hx))

theorem Mt.field_idx {m : Mt} {j : Fin 256} {i : Int} (h : j.val < m.count) (hi : m.idx[j.val]? = some i) :
    m.field (.idx j) = BitVec.ofInt 32 i := by
  rw [Mt.field, if_pos h, List.getD, hi]
  rfl

end Sys2Proof.Machine
end

section
open Sys2Proof Sys2Proof.Machine

/-- Settles O31: the check by its clauses, a field's number by the table of its unit's kind, and a field's word by the
stored value it is named for. -/
theorem rderPushesField : Obligations.RderPushesField := by
  unfold Obligations.RderPushesField
  refine ⟨fun k sel n u f s rest hu hf hl hs => exec_rder (rderCheck_field k hu hf) hl hs,
    fun s rest hl hs => exec_rder (r := .rng) rfl hl hs,
    fun ch n h => refuses_of_check rfl (rderCheck_rng_badCh n h),
    fun ch sel n hs h => refuses_of_check rfl (rderCheck_badCh n hs h),
    fun k sel n hs hu => refuses_of_check rfl (rderCheck_badSel k n hs hu),
    fun k sel n u hu hf => refuses_of_check rfl (rderCheck_undefined k hu hf),
    fun n h => refuses_of_check rfl (rderCheck_rng_badField h),
    fun c j h => Mt.field_beyond_count h,
    fun ch sel n => stalls_of_responds rfl,
    fun u n f => FieldRef.ofN_eq_some_iff,
    fun c r u hu => ?onePole, fun c r u hu => ?biquad, fun c t word h => ?tap, fun c r d hd => ?diff, fun c => ?rest⟩
  case onePole =>
    obtain rfl : u = c.onePole r := by cases r <;> exact hu
    exact ⟨rfl, rfl, rfl, rfl, rfl⟩
  case biquad =>
    obtain rfl : u = c.biquad r := by cases r <;> exact hu
    refine ⟨?_, rfl, rfl, rfl, rfl, rfl, rfl, rfl, rfl, rfl, rfl, rfl, rfl⟩
    rw [Channel.readField, Biquad.field]
    cases (c.biquad r).type <;> rfl
  case tap =>
    obtain rfl : word = t.field := by
      obtain ⟨s, rfl, rfl⟩ | ⟨l, s, rfl, rfl⟩ | ⟨rfl, rfl⟩ | ⟨l, rfl, rfl⟩ := h <;> rfl
    exact ⟨rfl, rfl, rfl, rfl, rfl, rfl, rfl, rfl, rfl, rfl, rfl⟩
  case diff =>
    obtain rfl : d = c.diff r := by cases r <;> exact hd
    exact ⟨rfl, rfl, rfl, rfl, rfl, rfl, rfl, rfl,
      fun k x hx => congrArg F32.bits (vecAt_of_getElem? hx), fun s => ⟨rfl, rfl⟩⟩
  case rest =>
    exact ⟨rfl, rfl, rfl, rfl, rfl, rfl,
      fun j x => ⟨fun h => congrArg F32.bits (vecAt_of_getElem? h), fun h => congrArg F32.bits (vecAt_of_getElem? h),
        Mt.field_w⟩,
      fun j i => Mt.field_idx, fun l => ⟨rfl, rfl, rfl⟩, rfl, rfl, rfl, rfl,
      fun k x h => congrArg F32.bits (vecAt_of_getElem? h)⟩
end

section
/-!
UPROC (46_diagnostic.md R502): what its check resolves and refuses, and the state after the run of one unit.
-/

namespace Sys2Proof.Machine

/-! ### The check -/

theorem uprocCheck_badCh {ch : BitVec 2} (sel n : BitVec 12) (h : ch = 0b00 ∨ ch = 0b11) :
    uprocCheck ch sel n = .error .badCh := by
  rw [uprocCheck, oneChan_eq_none h]

theorem uprocCheck_badSel (k : Chan) {sel : BitVec 12} (n : BitVec 12) (h : UnitRef.ofSel sel = none) :
    uprocCheck (maskOf k) sel n = .error .badSel := by
  simp only [uprocCheck, oneChan_maskOf, h]

section
variable (k : Chan) {sel n : BitVec 12} {u : UnitRef} (hu : UnitRef.ofSel sel = some u)
include hu

theorem uprocCheck_badN (h : n.toNat = 0 ∨ 1024 < n.toNat) : uprocCheck (maskOf k) sel n = .error .badN := by
  have hc : countCheck n Config.bs = .error .badN := (countCheck_eq n 1024).trans (if_pos h)
  simp only [uprocCheck, oneChan_maskOf, hu, hc]

/-- UPROC resolves every unit of one channel and its block length (46_diagnostic.md R502). -/
theorem uprocCheck_of_le (h1 : 1 ≤ n.toNat) (h2 : n.toNat ≤ 1024) :
    uprocCheck (maskOf k) sel n = .ok (k, u, n.toNat) := by
  have hc : countCheck n Config.bs = .ok n.toNat := (countCheck_eq n 1024).trans (if_neg (by omega))
  simp only [uprocCheck, oneChan_maskOf, hu, hc]

/-! ### The command -/

/-- UPROC with its input block (46_diagnostic.md R502). -/
theorem exec_uproc {s : State} {x : List F32} {rest : List Word} (h1 : 1 ≤ n.toNat) (h2 : n.toNat ≤ 1024)
    (hx : s.loadFrom k.input 0 n.toNat = some x) (hs : s.cmdFifo = encode (.uproc (maskOf k) sel n) ++ rest) :
    exec (.uproc (maskOf k) sel n) s = .next ((s.runUnit Config.transc k u x).completed 1 rest) := by
  have hc : (s.runUnit Config.transc k u x).cmdFifo = encode (.uproc (maskOf k) sel n) ++ rest := by
    simpa [State.runUnit] using hs
  simp only [exec, execUproc, uprocWith, uprocCheck_of_le k hu h1 h2, checked_ok, hx,
    State.consume_eq (len := 1) hc rfl]

/-- UPROC with a word of its input block missing (70_reset_and_hazards.md R620). -/
theorem exec_uproc_uninit {s : State} (h1 : 1 ≤ n.toNat) (h2 : n.toNat ≤ 1024)
    (hx : s.loadFrom k.input 0 n.toNat = none) : exec (.uproc (maskOf k) sel n) s = .fault .uninit := by
  simp only [exec, execUproc, uprocWith, uprocCheck_of_le k hu h1 h2, checked_ok, hx]

end

/-! ### The run of one unit -/

theorem Chan.input_addr (k : Chan) (j : Nat) : k.input.addr j = inBase k + 4 * j := by
  cases k <;> rfl

theorem Chan.output_addr (k : Chan) (j : Nat) : k.output.addr j = outBase k + 4 * j := by
  cases k <;> rfl

section
variable (T : Transc) (s : State) (k : Chan) (u : UnitRef) (x : List F32)

/-- The words of OUT after a run are the unit's outputs. -/
theorem State.runUnit_word {j : Nat} {v : F32} (h : ((s.chan k).runUnit T s.glob.interpEn u x).2[j]? = some v) :
    (s.runUnit T k u x).mem.readWord (outBase k + 4 * j) = some v.bits := by
  rw [← Chan.output_addr, ← Nat.zero_add j]
  exact State.storeFrom_word k.output 0 _ _ h

/-- The words a run marks as written. -/
theorem State.mem_runUnit_written {n : Nat} (hx : x.length = n) (a : Nat) : a ∈ (s.runUnit T k u x).written ↔
    a ∈ s.written ∨ ∃ j < n, a = outBase k + 4 * j := by
  rw [State.runUnit, State.storeFrom_written, State.setChan_written, Channel.runUnit_length, hx]
  simp only [Nat.zero_add, Chan.output_addr]

/-- What a run changes beside its channel, the memory and the written set: nothing. -/
theorem State.runUnit_frame :
    { (s.runUnit T k u x).setChan k (s.chan k) with mem := s.mem, written := s.written } = s := by
  have h := congrArg (fun t : State => t.setChan k (s.chan k)) (State.storeFrom_eq k.output 0
    ((s.chan k).runUnit T s.glob.interpEn u x).2 (s.setChan k ((s.chan k).runUnit T s.glob.interpEn u x).1))
  cases k <;> exact h

end

end Sys2Proof.Machine
end

section
open Sys2Proof Sys2Proof.Machine

/-- Settles O30: the input block is read, the unit runs on it, and its outputs are stored in one block. -/
theorem uprocRunsOneUnit : Obligations.UprocRunsOneUnit := by
  unfold Obligations.UprocRunsOneUnit
  refine ⟨fun k sel n u a s rest hu h1 h2 ha hs => ?completes,
    fun ch sel n h => refuses_of_check rfl (uprocCheck_badCh sel n h),
    fun k sel n h => refuses_of_check rfl (uprocCheck_badSel k n (h.elim id fun h => h ▸ by decide)),
    fun k sel n u hu h => refuses_of_check rfl (uprocCheck_badN k hu h),
    fun k sel n u j s hu h2 hj h => exec_uproc_uninit k hu (by omega) h2 (State.loadFrom_none hj ?unwritten),
    fun T i c x => ⟨fun _ => rfl, fun _ => rfl, fun _ _ => rfl, fun _ => rfl, fun _ => rfl, rfl, fun _ => rfl, rfl⟩,
    fun σ f q x xs => ⟨rfl, rfl⟩⟩
  case completes =>
    have hx := State.loadFrom_of_words (s := s) (r := k.input) (k := 0) (f := fun j => ⟨a j⟩) (n := n.toNat)
      (fun j hj => by rw [Nat.zero_add, Chan.input_addr]; exact ha j hj)
    generalize (List.range n.toNat).map (fun j => (⟨a j⟩ : F32)) = x at hx
    have hlen := (State.loadFrom_some hx).1
    refine ⟨_, _, exec_uproc k hu h1 h2 hx hs, Prod.ext ?chan rfl, (Channel.runUnit_length ..).trans hlen,
      fun j v hv => s.runUnit_word _ k u x hv, fun b hb => s.runUnit_readByte _ k u hlen hb,
      s.mem_runUnit_written _ k u x hlen, ?frame⟩
    case chan => exact ((s.chan_runUnit Config.transc k k u x).trans (if_pos rfl)).symm
    case frame =>
      have hframe := congrArg (fun t : State => t.completed 1 rest) (s.runUnit_frame Config.transc k u x)
      cases k <;> exact hframe
  case unwritten => rwa [Nat.zero_add, Chan.input_addr]
end

section
/-!
The errors of a command (60_exceptions.md R540-R545): the word of ERRCAUSE, the illegal word, and the two kinds of
outcome a command has.
-/

namespace Sys2Proof

/-- An illegal word is refused whatever follows it (30_encoding.md R167). -/
theorem decode_of_illegalOp {w : Word} (h : Machine.illegalOp (Machine.opOf w)) (rest : List Word) :
    decode (w :: rest) = .error (.illegalOp w) := by
  rw [Machine.illegalOp, Machine.opOf, ← opField_toNat] at h
  rw [decode, decodeHead]
  split
  case h_19 => rfl
  all_goals omega

end Sys2Proof

namespace Sys2Proof.Machine

/-! ### The head of the FIFO -/

theorem State.fetch_of_encode {s : State} {i : Instr} {rest : List Word} (hh : s.halt = false)
    (hs : s.cmdFifo = encode i ++ rest) : s.fetch = .run i := by
  simp [State.fetch, hh, hs, decode_encode]

theorem State.fetch_of_illegalOp {s : State} {w : Word} {rest : List Word} (hh : s.halt = false)
    (hs : s.cmdFifo = w :: rest) (hw : illegalOp (opOf w)) : s.fetch = .illegal w := by
  simp [State.fetch, hh, hs, decode_of_illegalOp hw]

/-- The core's turn at an illegal word is the error path, and one word is consumed (60_exceptions.md R542). -/
theorem coreStep_of_illegalOp {s : State} {w : Word} {rest : List Word} (hh : s.halt = false)
    (hs : s.cmdFifo = w :: rest) (hw : illegalOp (opOf w)) :
    coreStep s = .next (s.errored .illegalOp w 1 rest) := by
  rw [coreStep, State.fetch_of_illegalOp hh hs hw]
  exact congrArg Host.Outcome.next (State.raiseError_eq (ws := [w]) hs rfl)

/-! ### Next states -/

theorem exists_next_of_checked {α : Type} {s : State} {w : Word} {len : Nat} {r : Except Cause α}
    {go : α → Result State} (h : ∀ a, ∃ t, go a = .next t) : ∃ t, checked s w len r go = .next t := by
  cases r with
  | error c => exact ⟨_, checked_error s w len c go⟩
  | ok a => exact h a

theorem exists_next_of_whenRoom {s : State} {go : Result State} (h : ∃ t, go = .next t) :
    ∃ t, whenRoom s go = .next t := by
  unfold whenRoom
  split
  · exact ⟨s, rfl⟩
  · exact h

/-- A command that may fault behind its check answers a next state or that fault. -/
theorem next_or_uninit_of_checked {α : Type} {s : State} {w : Word} {len : Nat} {r : Except Cause α}
    {go : α → Result State} (h : ∀ a, (∃ t, go a = .next t) ∨ go a = .fault .uninit) :
    (∃ t, checked s w len r go = .next t) ∨ checked s w len r go = .fault .uninit := by
  cases r with
  | error c => exact .inl ⟨_, checked_error s w len c go⟩
  | ok a => exact h a

/-- PROC faults only for a missing word of its input blocks (70_reset_and_hazards.md R620). -/
theorem execProc_next_or_uninit (ch : BitVec 2) (sel n : BitVec 12) (s : State) :
    (∃ t, execProc ch sel n s = .next t) ∨ execProc ch sel n s = .fault .uninit :=
  next_or_uninit_of_checked fun k => by
    cases s.loadFrom .inL 0 k <;> cases s.loadFrom .inR 0 k <;> simp

/-- UPROC faults only for a missing word of its input block (70_reset_and_hazards.md R620). -/
theorem execUproc_next_or_uninit (ch : BitVec 2) (sel n : BitVec 12) (s : State) :
    (∃ t, execUproc ch sel n s = .next t) ∨ execUproc ch sel n s = .fault .uninit :=
  next_or_uninit_of_checked fun p => by
    cases s.loadFrom p.1.input 0 p.2.2 <;> simp

end Sys2Proof.Machine
end

section
open Sys2Proof Sys2Proof.Machine

/-- Settles O6: a cause given by the command's own words is the one it is refused with. -/
theorem errorPathIsPrecise : Obligations.ErrorPathIsPrecise := by
  unfold Obligations.ErrorPathIsPrecise
  refine ⟨fun i c h => refuses_of_instrError h, fun s c w len rest => ?_⟩
  cases c <;> rfl

/-- Settles O7: the decoder refuses the illegal word alone, and then starts at the word after it. -/
theorem illegalOpcode : Obligations.IllegalOpcode := by
  unfold Obligations.IllegalOpcode
  refine ⟨fun s w rest hc hh hs hw => ⟨?_, fun i tail hi => State.fetch_of_encode rfl hi⟩,
    fun s i rest hh hs => State.fetch_of_encode hh hs⟩
  rw [step, hc]
  exact coreStep_of_illegalOp hh hs hw

/-- Settles O52: every command checks its words and goes on to a next state; PROC and UPROC read their input first. -/
theorem onlyUninit : Obligations.OnlyUninit := by
  unfold Obligations.OnlyUninit
  intro i s
  cases i with
  | proc ch sel n => exact (execProc_next_or_uninit ch sel n s).imp_right fun h => ⟨h, ch, sel, n, .inl rfl⟩
  | uproc ch sel n => exact (execUproc_next_or_uninit ch sel n s).imp_right fun h => ⟨h, ch, sel, n, .inr rfl⟩
  | nop | wreg | setfs | clear | rngseed | vgen | vgenx | wder => exact .inl (exists_next_of_checked fun _ => ⟨_, rfl⟩)
  | sync | rreg | rngu | rngi | rngf | rngb | bqresp | rder =>
    exact .inl (exists_next_of_whenRoom (exists_next_of_checked fun _ => ⟨_, rfl⟩))
end

section
/-!
The cause a command reports (60_exceptions.md R543): its check goes through the causes of its list in the order of their
codes, so it finds the lowest one that applies.
-/

namespace Sys2Proof.Machine

/-! ### The first cause of a list -/

/-- r is the first cause of the list that meets p, if one does. -/
def FirstOf (p : Cause → Prop) (r : Option Cause) : List Cause → Prop
  | [] => r = none
  | c :: cs => (p c ∧ r = some c) ∨ (¬ p c ∧ FirstOf p r cs)

section
variable {p : Cause → Prop} {r : Option Cause}

/-- One cause looked at: it is reported if it is met, and passed over otherwise. -/
theorem FirstOf.cons {c : Cause} {cs : List Cause} (h : p c → r = some c) (hcs : ¬ p c → FirstOf p r cs) :
    FirstOf p r (c :: cs) := by
  by_cases hc : p c
  · exact .inl ⟨hc, h hc⟩
  · exact .inr ⟨hc, hcs hc⟩

theorem FirstOf.eq_none_iff {cs : List Cause} (h : FirstOf p r cs) : r = none ↔ ∀ c ∈ cs, ¬ p c := by
  induction cs with
  | nil => simp [show r = none from h]
  | cons a cs ih =>
    obtain ⟨ha, rfl⟩ | ⟨ha, h⟩ := h
    · simp [ha]
    · simp [ha, ih h]

/-- In a list in the order of the codes, the first cause that meets p is the one of the lowest code. -/
theorem FirstOf.eq_some_iff {cs : List Cause} (h : FirstOf p r cs) (hs : cs.Pairwise (·.code < ·.code)) (c : Cause) :
    r = some c ↔ c ∈ cs ∧ p c ∧ ∀ d ∈ cs, d.code < c.code → ¬ p d := by
  induction cs with
  | nil => simp [show r = none from h]
  | cons a cs ih =>
    obtain ⟨hlt, hs⟩ := List.pairwise_cons.1 hs
    obtain ⟨ha, rfl⟩ | ⟨ha, h⟩ := h
    · have hmin : ∀ d ∈ cs, ¬ d.code < a.code := fun d hd => (hlt d hd).not_gt
      grind
    · rw [ih h hs]
      grind

end

/-! ### What the operands resolve to -/

theorem exists_eq_maskOf {ch : BitVec 2} (h : ¬ (ch = 0b00 ∨ ch = 0b11)) : ∃ k, ch = maskOf k := by
  have hk : oneChan ch ≠ none := by
    revert ch
    decide
  obtain ⟨k, hk⟩ := Option.ne_none_iff_exists'.1 hk
  exact ⟨k, oneChan_eq_some.1 hk⟩

/-- WDER stores every word but a NaN in a float field (46_diagnostic.md R504). -/
theorem WriteType.exists_accept {y : WriteType} {w : Word} (hy : y ≠ .readOnly)
    (hw : ¬ (F32.isNaN ⟨w⟩ = true ∧ (y = .anyFloat ∨ ∃ lo hi, y = .float lo hi))) : ∃ v, y.accept w = .ok v := by
  cases y with
  | readOnly => exact absurd rfl hy
  | anyFloat => exact ⟨w, if_neg fun h => hw ⟨h, .inl rfl⟩⟩
  | float lo hi => exact ⟨_, if_neg fun h => hw ⟨h, .inr ⟨lo, hi, rfl⟩⟩⟩
  | unsigned lo hi => exact ⟨_, rfl⟩

/-! ### The commands -/

/-- A command reports the first cause of its list that applies to it. -/
def ReportsFirst (i : Instr) : Prop := FirstOf (applies i) (instrError i) (errorsOf i)

section
variable (ch : BitVec 2) (sel n : BitVec 12) (v : Word)

theorem noFields_reportsFirst {i : Instr} (hi : instrError i = causeOf (noFieldsCheck ch sel n))
    (ha : applies i .reserved ↔ ch ≠ 0 ∨ sel ≠ 0 ∨ n ≠ 0) (hl : errorsOf i = [.reserved]) : ReportsFirst i := by
  rw [ReportsFirst, hi, hl]
  refine .cons (fun h => by rw [noFieldsCheck_reserved (ha.1 h)]; rfl) fun h => ?_
  obtain ⟨rfl, rfl, rfl⟩ : ch = 0 ∧ sel = 0 ∧ n = 0 := by simpa [ha] using h
  rfl

theorem wreg_reportsFirst : ReportsFirst (.wreg ch sel n v) := by
  refine .cons (fun hn => causeOf_eq_some.2 (wregCheck_reserved ch sel v hn)) fun hn => ?_
  obtain rfl : n = 0 := not_not.1 hn
  refine .cons (fun hch => hch ▸ causeOf_eq_some.2 (wregCheck_badCh sel v)) fun hch => ?_
  refine .cons (fun hsel => causeOf_eq_some.2 (wregCheck_badSel v hch hsel)) fun hsel => ?_
  obtain ⟨hnone, hzero⟩ := not_or.1 hsel
  obtain ⟨r, hr⟩ := Option.ne_none_iff_exists'.1 hnone
  have hfs : r ≠ .glob .fs := fun h => hzero (ofSel_eq_fs_iff.1 (h ▸ hr))
  have hvalue : applies (.wreg ch sel 0 v) .badValue ↔ r.type.accept v = none := by
    simp [applies, RegType.accept_eq_none_iff, hr]
  refine .cons (fun hv => causeOf_eq_some.2 (wregCheck_badValue hch hr hfs (hvalue.1 hv))) fun hv => ?_
  obtain ⟨w, hw⟩ := Option.ne_none_iff_exists'.1 (hv ∘ hvalue.2)
  exact causeOf_eq_none.2 ⟨_, wregCheck_of_accept hch hr hfs hw⟩

theorem rreg_reportsFirst : ReportsFirst (.rreg ch sel n) := by
  refine .cons (fun hn => causeOf_eq_some.2 (rregCheck_reserved ch sel hn)) fun hn => ?_
  obtain rfl : n = 0 := not_not.1 hn
  refine .cons (fun hch => causeOf_eq_some.2 (rregCheck_badCh sel hch)) fun hch => ?_
  obtain ⟨k, rfl⟩ := exists_eq_maskOf hch
  refine .cons (fun hsel => causeOf_eq_some.2 (rregCheck_badSel k hsel)) fun hsel => ?_
  obtain ⟨r, hr⟩ := Option.ne_none_iff_exists'.1 hsel
  exact causeOf_eq_none.2 ⟨_, rregCheck_of_ofSel k hr⟩

theorem setfs_reportsFirst : ReportsFirst (.setfs ch sel n v) := by
  refine .cons (fun h => causeOf_eq_some.2 (setfsCheck_reserved v h)) fun h => ?_
  obtain ⟨rfl, rfl, rfl⟩ : ch = 0 ∧ sel = 0 ∧ n = 0 := by simpa [applies] using h
  refine .cons (fun hv => causeOf_eq_some.2 ((setfsCheck_zero v).trans (if_pos hv))) fun hv => ?_
  exact causeOf_eq_none.2 ⟨_, (setfsCheck_zero v).trans (if_neg hv)⟩

theorem clear_reportsFirst : ReportsFirst (.clear ch sel n) := by
  refine .cons (fun hn => causeOf_eq_some.2 (clearCheck_reserved ch sel hn)) fun hn => ?_
  obtain rfl : n = 0 := not_not.1 hn
  refine .cons (fun hch => hch ▸ causeOf_eq_some.2 (clearCheck_badCh sel)) fun hch => ?_
  refine .cons (fun hsel => causeOf_eq_some.2 (clearCheck_badSel hch hsel)) fun hsel => ?_
  obtain ⟨u, hu⟩ := Option.ne_none_iff_exists'.1 hsel
  exact causeOf_eq_none.2 ⟨_, clearCheck_of_ofSel hch hu⟩

theorem sync_reportsFirst : ReportsFirst (.sync ch sel n) := by
  refine .cons (fun h => causeOf_eq_some.2 (syncCheck_reserved h)) fun h => ?_
  obtain ⟨rfl, rfl⟩ : ch = 0 ∧ sel = 0 := by simpa [applies] using h
  rfl

theorem vgen_reportsFirst : ReportsFirst (.vgen ch sel n v) := by
  refine .cons (fun h => causeOf_eq_some.2 (vgenCheck_reserved n h)) fun h => ?_
  obtain ⟨rfl, rfl⟩ : ch = 0 ∧ sel = 0 := by simpa [applies] using h
  refine .cons (fun hn => causeOf_eq_some.2 (vgenCheck_badN hn)) fun hn => ?_
  obtain ⟨h0, hle⟩ := not_or.1 hn
  exact causeOf_eq_none.2 ⟨_, vgenCheck_of_le (by omega) (by omega)⟩

/-- PROC and VGEN have one check (44_fdn_channel.md R397, 40_rng_vgen.md R215). -/
theorem proc_reportsFirst : ReportsFirst (.proc ch sel n) := by
  have happlies : applies (.proc ch sel n) = applies (.vgen ch sel n 0) := by
    funext c
    cases c <;> rfl
  rw [ReportsFirst, happlies]
  exact vgen_reportsFirst ch sel n 0

theorem vgenx_reportsFirst (cs : Word) : ReportsFirst (.vgenx ch sel n v cs) := by
  refine .cons (fun h => causeOf_eq_some.2 (vgenxCheck_of_error cs (vgenCheck_reserved n h))) fun h => ?_
  obtain ⟨rfl, rfl⟩ : ch = 0 ∧ sel = 0 := by simpa [applies] using h
  refine .cons (fun hn => causeOf_eq_some.2 (vgenxCheck_of_error cs (vgenCheck_badN hn))) fun hn => ?_
  obtain ⟨h0, hle⟩ := not_or.1 hn
  have hcheck := vgenxCheck_of_le cs (n := n) (by omega) (by omega)
  refine .cons (fun hv => causeOf_eq_some.2 (hcheck.trans (if_pos hv))) fun hv => ?_
  exact causeOf_eq_none.2 ⟨_, hcheck.trans (if_neg hv)⟩

theorem bqresp_reportsFirst : ReportsFirst (.bqresp ch sel n v) := by
  refine .cons (fun hn => causeOf_eq_some.2 (bqrespCheck_reserved ch sel v hn)) fun hn => ?_
  obtain rfl : n = 0 := not_not.1 hn
  refine .cons (fun hch => causeOf_eq_some.2 (bqrespCheck_badCh sel v hch)) fun hch => ?_
  obtain ⟨k, rfl⟩ := exists_eq_maskOf hch
  refine .cons (fun hsel => causeOf_eq_some.2 (bqrespCheck_badSel k v hsel)) fun hsel => ?_
  obtain ⟨u, hu⟩ := not_forall_not.1 hsel
  have hcheck := bqrespCheck_of_biquad k v hu
  refine .cons (fun hv => causeOf_eq_some.2 (hcheck.trans (if_pos hv))) fun hv => ?_
  exact causeOf_eq_none.2 ⟨_, hcheck.trans (if_neg hv)⟩

theorem uproc_reportsFirst : ReportsFirst (.uproc ch sel n) := by
  refine .cons (fun hch => causeOf_eq_some.2 (uprocCheck_badCh sel n hch)) fun hch => ?_
  obtain ⟨k, rfl⟩ := exists_eq_maskOf hch
  refine .cons (fun hsel => causeOf_eq_some.2 (uprocCheck_badSel k n hsel)) fun hsel => ?_
  obtain ⟨u, hu⟩ := Option.ne_none_iff_exists'.1 hsel
  refine .cons (fun hn => causeOf_eq_some.2 (uprocCheck_badN k hu hn)) fun hn => ?_
  obtain ⟨h0, hle⟩ := not_or.1 hn
  exact causeOf_eq_none.2 ⟨_, uprocCheck_of_le k hu (by omega) (by omega)⟩

/-- The number of the RNG names no unit of a channel (46_diagnostic.md R500). -/
theorem ofSel_rng : UnitRef.ofSel 0xF00#12 = none := by decide

/-- RDER of the RNG: only its field 0, under no channel (46_diagnostic.md R503). -/
theorem rder_rng_reportsFirst : ReportsFirst (.rder ch 0xF00 n) := by
  refine .cons (fun hch => causeOf_eq_some.2 (rderCheck_rng_badCh n (by simpa [applies] using hch))) fun hch => ?_
  obtain rfl : ch = 0 := by simpa [applies] using hch
  refine .cons (fun h => absurd rfl h.1) fun _ => ?_
  refine .cons (fun hn => causeOf_eq_some.2 (rderCheck_rng_badField (by simpa [applies, ofSel_rng] using hn)))
    fun hn => ?_
  obtain rfl : n = 0 := by simpa [applies, ofSel_rng] using hn
  rfl

/-- RDER of a unit: one channel, a unit and a field of it (46_diagnostic.md R503). -/
theorem rder_unit_reportsFirst (hs : sel ≠ 0xF00#12) : ReportsFirst (.rder ch sel n) := by
  refine .cons (fun hch => causeOf_eq_some.2 (rderCheck_badCh n hs (by simpa [applies, hs] using hch))) fun hch => ?_
  obtain ⟨k, rfl⟩ := exists_eq_maskOf (ch := ch) (by simpa [applies, hs] using hch)
  refine .cons (fun hu => causeOf_eq_some.2 (rderCheck_badSel k n hs hu.2)) fun hu => ?_
  obtain ⟨u, hu⟩ := Option.ne_none_iff_exists'.1 fun h => hu ⟨hs, h⟩
  have hfield : applies (.rder (maskOf k) sel n) .badField ↔ FieldRef.ofN u n = none := by simp [applies, hs, hu]
  refine .cons (fun hf => causeOf_eq_some.2 (rderCheck_undefined k hu (hfield.1 hf))) fun hf => ?_
  obtain ⟨f, hf⟩ := Option.ne_none_iff_exists'.1 (hf ∘ hfield.2)
  exact causeOf_eq_none.2 ⟨_, rderCheck_field k hu hf⟩

/-- WDER of the RNG: only its field 0, under no channel (46_diagnostic.md R504). -/
theorem wder_rng_reportsFirst : ReportsFirst (.wder ch 0xF00 n v) := by
  refine .cons (fun hch => causeOf_eq_some.2 (wderCheck_rng_badCh n v (by simpa [applies] using hch))) fun hch => ?_
  obtain rfl : ch = 0 := by simpa [applies] using hch
  refine .cons (fun h => absurd rfl h.1) fun _ => ?_
  refine .cons (fun hn => causeOf_eq_some.2 (wderCheck_rng_badField v (by simpa [applies, ofSel_rng] using hn)))
    fun hn => ?_
  obtain rfl : n = 0 := by simpa [applies, ofSel_rng] using hn
  refine .cons (fun hv => ?_) fun _ => rfl
  simp [applies, ofSel_rng] at hv

/-- WDER of a unit: a channel, a unit, and a field of it that takes the word (46_diagnostic.md R504). -/
theorem wder_unit_reportsFirst (hs : sel ≠ 0xF00#12) : ReportsFirst (.wder ch sel n v) := by
  refine .cons (fun hch => ?badCh) fun hch => ?_
  case badCh =>
    obtain rfl : ch = 0 := by simpa [applies, hs] using hch
    exact causeOf_eq_some.2 (wderCheck_noChannel n v hs)
  replace hch : ch ≠ 0 := by simpa [applies, hs] using hch
  refine .cons (fun hu => causeOf_eq_some.2 (wderCheck_badSel n v hs hch hu.2)) fun hu => ?_
  obtain ⟨u, hu⟩ := Option.ne_none_iff_exists'.1 fun h => hu ⟨hs, h⟩
  cases hf : FieldRef.ofN u n with
  | none => exact .cons (fun _ => causeOf_eq_some.2 (wderCheck_undefined v hch hu hf)) fun h =>
      absurd (.inr ⟨u, hu, .inl hf⟩) h
  | some f =>
    have hcheck := wderCheck_field v hch hu hf
    have hfield : applies (.wder ch sel n v) .badField ↔ f.writeType = .readOnly := by simp [applies, hs, hu, hf]
    have hvalue : applies (.wder ch sel n v) .badValue ↔
        F32.isNaN ⟨v⟩ = true ∧ (f.writeType = .anyFloat ∨ ∃ lo hi, f.writeType = .float lo hi) := by
      simp [applies, hu, hf]
    refine .cons (fun hw => causeOf_eq_some.2 (by rw [hcheck, hfield.1 hw]; rfl)) fun hw => ?_
    refine .cons (fun hv => causeOf_eq_some.2 ?badValue) fun hv => ?_
    case badValue =>
      obtain ⟨hnan, hfloat⟩ := hvalue.1 hv
      rw [hcheck, WriteType.accept_nan hfloat hnan]
      rfl
    obtain ⟨w, hw⟩ := WriteType.exists_accept (hw ∘ hfield.2) (hv ∘ hvalue.2)
    exact causeOf_eq_none.2 ⟨.unit f w, by rw [hcheck, hw]; rfl⟩

end

/-- The checks of every command go through its list of causes (60_exceptions.md R543, R544). -/
theorem reportsFirst (i : Instr) : ReportsFirst i := by
  cases i with
  | nop ch sel n | rngseed ch sel n | rngu ch sel n | rngi ch sel n | rngf ch sel n | rngb ch sel n =>
    exact noFields_reportsFirst ch sel n rfl .rfl rfl
  | sync ch sel n => exact sync_reportsFirst ch sel n
  | wreg ch sel n v => exact wreg_reportsFirst ch sel n v
  | rreg ch sel n => exact rreg_reportsFirst ch sel n
  | setfs ch sel n v => exact setfs_reportsFirst ch sel n v
  | clear ch sel n => exact clear_reportsFirst ch sel n
  | proc ch sel n => exact proc_reportsFirst ch sel n
  | vgen ch sel n v => exact vgen_reportsFirst ch sel n v
  | vgenx ch sel n v cs => exact vgenx_reportsFirst ch sel n v cs
  | bqresp ch sel n v => exact bqresp_reportsFirst ch sel n v
  | uproc ch sel n => exact uproc_reportsFirst ch sel n
  | rder ch sel n =>
    by_cases hs : sel = 0xF00#12
    · exact hs ▸ rder_rng_reportsFirst ch n
    · exact rder_unit_reportsFirst ch sel n hs
  | wder ch sel n v =>
    by_cases hs : sel = 0xF00#12
    · exact hs ▸ wder_rng_reportsFirst ch n v
    · exact wder_unit_reportsFirst ch sel n v hs

/-- The list of a command is in the order of the codes (60_exceptions.md R541). -/
theorem errorsOf_pairwise (i : Instr) : (errorsOf i).Pairwise (·.code < ·.code) := by
  cases i <;> simp [errorsOf, Cause.code]

/-- A cause that can apply to a command stands in its list (60_exceptions.md R544). -/
theorem mem_errorsOf_of_applies {i : Instr} {c : Cause} (h : applies i c) : c ∈ errorsOf i := by
  cases c with
  | illegalOp => exact h.elim
  | reserved | badCh | badSel | badN | badField | badValue => cases i <;> simp [errorsOf] <;> exact h

end Sys2Proof.Machine
end

section
open Sys2Proof Sys2Proof.Machine

/-- Settles O8: a command reports the first cause of its list that applies, and the list is in order of the codes. -/
theorem lowestCause : Obligations.LowestCause := by
  unfold Obligations.LowestCause
  refine ⟨fun i c => ?_, fun i => ?_⟩
  · rw [(reportsFirst i).eq_some_iff (errorsOf_pairwise i) c]
    exact ⟨fun ⟨_, hc, hlow⟩ => ⟨hc, fun d hlt hd => hlow d (mem_errorsOf_of_applies hd) hlt hd⟩,
      fun ⟨hc, hlow⟩ => ⟨mem_errorsOf_of_applies hc, hc, fun d _ => hlow d⟩⟩
  · rw [(reportsFirst i).eq_none_iff]
    exact ⟨fun h c hc => h c (mem_errorsOf_of_applies hc) hc, fun h c _ => h c⟩
end

section
/-!
The table of errors (60_exceptions.md R544): a command of each opcode for each cause in its list.
-/

namespace Sys2Proof

/-- The command of the same opcode with the fields ch, sel and n, and with a NaN in every operand word. -/
def Instr.withFields (ch : BitVec 2) (sel n : BitVec 12) : Instr → Instr
  | .nop _ _ _ => .nop ch sel n
  | .sync _ _ _ => .sync ch sel n
  | .wreg _ _ _ _ => .wreg ch sel n 0x7FC00000
  | .rreg _ _ _ => .rreg ch sel n
  | .setfs _ _ _ _ => .setfs ch sel n 0x7FC00000
  | .clear _ _ _ => .clear ch sel n
  | .proc _ _ _ => .proc ch sel n
  | .rngseed _ _ _ _ => .rngseed ch sel n 0x7FC00000
  | .rngu _ _ _ => .rngu ch sel n
  | .rngi _ _ _ => .rngi ch sel n
  | .rngf _ _ _ => .rngf ch sel n
  | .rngb _ _ _ => .rngb ch sel n
  | .vgen _ _ _ _ => .vgen ch sel n 0x7FC00000
  | .vgenx _ _ _ _ _ => .vgenx ch sel n 0x7FC00000 0x7FC00000
  | .bqresp _ _ _ _ => .bqresp ch sel n 0x7FC00000
  | .uproc _ _ _ => .uproc ch sel n
  | .rder _ _ _ => .rder ch sel n
  | .wder _ _ _ _ => .wder ch sel n 0x7FC00000

end Sys2Proof

namespace Sys2Proof.Machine

theorem opOf_withFields (ch : BitVec 2) (sel n : BitVec 12) (i : Instr) :
    opOf (headOf (i.withFields ch sel n)) = opOf (headOf i) := by
  simp only [opOf, ← opField_toNat]
  cases i <;> simp [Instr.withFields, headOf, encode]

/-- A command of the opcode of i that raises c, where c is in the list of i: SEL 0xFFF names nothing, SEL 0x005 is a
register and the unit BQX, and field 4 of BQX may be written. -/
def raising (i : Instr) (c : Cause) : Instr :=
  match c, i with
  | .illegalOp, _ => i
  | .reserved, _ => i.withFields 1 1 1
  | .badCh, _ => i.withFields 0 0 0
  | .badSel, _ => i.withFields 1 0xFFF 0
  | .badN, .uproc _ _ _ => i.withFields 1 0x005 0
  | .badN, _ => i.withFields 0 0 0
  | .badField, _ => i.withFields 1 0x005 0xFFF
  | .badValue, .setfs _ _ _ _ => i.withFields 0 0 0
  | .badValue, .vgenx _ _ _ _ _ => i.withFields 0 0 1
  | .badValue, .wder _ _ _ _ => i.withFields 1 0x005 4
  | .badValue, _ => i.withFields 1 0x005 0

theorem opOf_raising (i : Instr) (c : Cause) : opOf (headOf (raising i c)) = opOf (headOf i) := by
  unfold raising
  split
  case h_1 => rfl
  all_goals exact opOf_withFields ..

/-- Every cause in the list of a command is raised by a command of its opcode (60_exceptions.md R544). -/
theorem instrError_raising (i : Instr) : ∀ c ∈ errorsOf i, instrError (raising i c) = some c := by
  cases i <;>
    simp only [errorsOf, List.forall_mem_cons, List.not_mem_nil, false_implies, implies_true, raising,
      Instr.withFields] <;>
    decide +kernel

end Sys2Proof.Machine
end

section
open Sys2Proof Sys2Proof.Machine

/-- Settles O9: the cause reported is one of the list, each cause of the list has a command that raises it, and the
decoder refuses the illegal words. -/
theorem errorsOfCommands : Obligations.ErrorsOfCommands := by
  unfold Obligations.ErrorsOfCommands
  refine ⟨fun i c h => (((reportsFirst i).eq_some_iff (errorsOf_pairwise i) c).1 h).1,
    fun i c hc => ⟨raising i c, opOf_raising i c, instrError_raising i c hc⟩, fun w v rest => ⟨fun h => ?_, ?_⟩⟩
  · obtain ⟨hop, tail, hw⟩ := illegalOp_of_decode h
    obtain rfl := (List.cons.inj hw).1
    exact ⟨rfl, hop⟩
  · rintro ⟨rfl, hop⟩
    exact decode_of_illegalOp hop rest
end
